-- ==== Sys2Proof/Word.lean ====
section
/-! DEFINITION. The words the plan line and the array carry, and their plainest arithmetic. -/

namespace Sys2Proof

/-- A byte of the array, or an octet of the plan line. -/
abbrev Byte := BitVec 8

/-- A tag, a count of a copy's accumulators. -/
abbrev Word16 := BitVec 16

/-- A serial, a web position, a counter, a group set, a slot set (chapter 11: bit i stands for group or slot i). -/
abbrev Word32 := BitVec 32

/-- A node number as octets 1 and 2 carry it: 0 to 30, or 31. -/
abbrev NodeId := BitVec 5

/-- One more, staying at the largest value (R41, R117: the counts saturate). -/
def saturatingSucc {w : Nat} (x : BitVec w) : BitVec w :=
  if x = BitVec.allOnes w then x else x + 1

end Sys2Proof
end

