-- ==== Sys2Proof/Config.lean ====
section
/-! DEFINITION. What the part fixes: the sizes of its lists and the limits of its times. The spec leaves no result of a
command open, so there is no free value here. -/

namespace Sys2Proof.Config

/-- Places of the Panel Queue (R38). -/
def queueSize : Nat := 8
/-- Places of the Stitch Window's ring (R79). -/
def windowSize : Nat := 16
/-- Entries of the history (R127). -/
def historySize : Nat := 64
/-- Cut list entries and reservations together (R141). -/
def cutSize : Nat := 8
/-- Splice zones (R147). -/
def zoneSize : Nat := 4
/-- Slots of the inbound buffer (R160). -/
def inboundSize : Nat := 4
/-- General places of the outbound queue (R163). -/
def generalSize : Nat := 5
/-- Entries of the role table (R170). -/
def roleSize : Nat := 8
/-- Most history entries one BACKSTITCH rewinds (R130). -/
def rewindMost : Nat := 32
/-- Most octets of a frame (R155). -/
def frameOctets : Nat := 28
/-- Slots of the array (R2). -/
def slotCount : Nat := 32
/-- Bytes of a slot (R2). -/
def slotBytes : Nat := 4096
/-- Bytes of a page, and of the setup page (R2). -/
def pageBytes : Nat := 256
/-- Segments a slot has room for (R3). -/
def segmentCount : Nat := 508
/-- NUP inactive before an accepted edge, in microseconds (R100). -/
def nupInactiveUs : Nat := 2000
/-- HOLD stable before its seen level follows, in microseconds (R107). -/
def holdStableUs : Nat := 10
/-- A level shorter than this is not seen with the line filter on, in nanoseconds (R152). -/
def filterNs : Nat := 2000
/-- Error aborts at which a frame is discarded (R165). -/
def abortLimit : Nat := 3

end Sys2Proof.Config
end

