-- ==== Sys2Proof/Syntax.lean ====
section
/-! DEFINITION. The commands: one constructor for each row of spec/opcode_table.json, in the table's order. A request row
carries the node it comes from and its parameter octets, field by field, in the widths of chapter 11. -/

namespace Sys2Proof

/-- One cell, or one start mark, as it stands on the line (R153, R154): how long it is dominant, and when the next dominant
edge comes after its own, both in nanoseconds; `none` when no edge comes. -/
structure LineCell where
  dominant : Nat
  next : Option Nat
  deriving DecidableEq, Repr

/-- A frame as it stands on the line: its start mark and then its cells (R154, R155). -/
structure Wave where
  mark : LineCell
  cells : List LineCell
  deriving DecidableEq, Repr

/-- A request frame as the Line Port holds it: source node, request code, parameter octets (R155). -/
structure RequestFrame where
  src : NodeId
  code : Byte
  params : List Byte
  deriving DecidableEq, Repr

/-- The steps in which an operation programs or erases the array (R24, R25, R28, R172), and the VOID mark write after a
failure (R24, R28). -/
inductive ArrayStep where
  | openedMark | pageData | summaryFields | closedMark | voidMarkFirst | slotErase | voidMarkAfterFailure
  | signatureZero | setupErase | setupFields | signatureWrite
  deriving DecidableEq, Repr

/-- The commands. -/
inductive Instr where
  | powerOn
  /-- `left`: what an interrupted array step left (array address and byte). -/
  | resetnAssert (left : List Host.Cell)
  | resetnRelease
  /-- `inactiveUs`: how long NUP was inactive without interruption before this active edge, counted from the last reset at
  the earliest (R100). -/
  | needleUp (inactiveUs : Nat)
  /-- HOLD has stood at one level for `stableUs` microseconds (R107); `asserted` is low. -/
  | holdSeenChange (asserted : Bool) (stableUs : Nat)
  | stopSilenceExpiry
  | resumeSettleEnd
  | expansionEvent
  /-- The array reports `step` complete; `failed` lists the bytes that took another value than programming gives. -/
  | programStepComplete (step : ArrayStep) (failed : List Host.Cell)
  /-- The array reports an erase complete; `residue` lists the bytes that are not blank. -/
  | eraseComplete (residue : List Host.Cell)
  | boundExpiry (left : List Host.Cell)
  | progressIntervalEnd
  | readComplete
  | inboundFrame (wave : Wave)
  /-- The line has been recessive without interruption for `recessiveNs` nanoseconds. -/
  | lineIdle (recessiveNs : Nat)
  | frameHandOn
  | frameStart
  | frameDelivered (wave : Wave)
  | arbitrationLost (wave : Wave)
  | errorAbort (wave : Wave)
  | loadBuffer (src : NodeId) (offset : Byte) (data : List Byte)
  | clearBuffer (src : NodeId)
  | commitPage (src : NodeId) (slot page : Byte)
  | eraseSlot (src : NodeId) (slot : Byte)
  | closeSlot (src : NodeId) (slot : Byte)
  | readLibrary (src : NodeId) (slot page offset count : Byte)
  | readOutcome (src : NodeId)
  | enqueue (src : NodeId) (tag : Word16) (slot : Byte) (length gap : Word16) (mode stitch : Byte) (start : Word16)
      (groups : Word32) (tackCount tackLength copies : Byte)
  | cancel (src : NodeId) (tag : Word16)
  | readQueue (src : NodeId)
  | readOrder (src : NodeId) (tag : Word16) (part : Byte)
  | takeHead (src : NodeId) (serial : Word32)
  | takeFeed (src : NodeId) (serial : Word32)
  | reportMoved (src : NodeId) (serial : Word32)
  | start (src : NodeId)
  | stop (src : NodeId)
  | endRun (src : NodeId)
  | resume (src : NodeId)
  | abort (src : NodeId)
  | clearCauses (src : NodeId) (causes : Word16)
  | reportStopped (src : NodeId)
  | readStatus (src : NodeId) (part : Byte)
  | readCounters (src : NodeId) (first : Byte)
  | clearCounters (src : NodeId)
  | reportBreak (src : NodeId) (groups : Word32)
  | reportMended (src : NodeId) (groups : Word32)
  | park (src : NodeId) (groups : Word32)
  | unpark (src : NodeId) (groups : Word32)
  | backstitch (src : NodeId) (count : Byte)
  | readHistory (src : NodeId) (age : Byte)
  | cutQuery (src : NodeId)
  | cutDone (src : NodeId) (tag : Word16) (copy : Byte)
  | reportSplice (src : NodeId) (web : Word32)
  /-- The value's octets as sent; their number must be the setting's (R177). -/
  | setSetting (src : NodeId) (code : Byte) (value : List Byte)
  | setRole (src : NodeId) (node role : Byte)
  | writeSetup (src : NodeId)
  | reloadSetup (src : NodeId)
  | resetPart (src : NodeId)
  | resetPartApply
  | readSetting (src : NodeId) (code : Byte)
  | readTable (src : NodeId)
  | frameNotForPart (wave : Wave)
  | notAStartMark (mark : LineCell)
  | powerOff (left : List Host.Cell)
  deriving DecidableEq, Repr

end Sys2Proof
end

