-- ==== Sys2Proof/WellFormed.lean ====
section
/-! DEFINITION. Which commands the outside can send. The checks are about the command alone, not about the state. -/

namespace Sys2Proof

/-- No request comes from node 31: the part refuses such a frame at octet 2 (R159). -/
def sourceOk (src : NodeId) : Bool := src != 31#5

/-- A frame has at most 25 parameter octets (R155), one of them the offset or the setting code. -/
def octetsOk (data : List Byte) : Bool := decide (data.length ≤ 24)

/-- Cells of the array have an address in it and come in rising order. -/
def cellsOk (cells : List Host.Cell) : Bool :=
  cells.all (fun c => decide (c.1 < Config.slotCount * Config.slotBytes + Config.pageBytes)) &&
    decide (cells.Pairwise fun a b => a.1 < b.1)

/-- Every level of a cell that is followed by another lies before the next edge. -/
def lineCellOk (c : LineCell) : Bool :=
  decide (0 < c.dominant) && (c.next.all fun t => decide (c.dominant < t))

/-- A frame on the line has at most 28 octets of 11 cells (R155). -/
def waveOk (w : Wave) : Bool :=
  lineCellOk w.mark && w.cells.all lineCellOk && decide (w.cells.length ≤ 11 * Config.frameOctets)

def WellFormed : Instr → Bool
  | .powerOn => true
  | .resetnAssert left => cellsOk left
  | .resetnRelease => true
  | .needleUp _ => true
  | .holdSeenChange _ _ => true
  | .stopSilenceExpiry => true
  | .resumeSettleEnd => true
  | .expansionEvent => true
  | .programStepComplete _ failed => cellsOk failed
  | .eraseComplete residue => cellsOk residue
  | .boundExpiry left => cellsOk left
  | .progressIntervalEnd => true
  | .readComplete => true
  | .inboundFrame w => waveOk w
  | .lineIdle _ => true
  | .frameHandOn => true
  | .frameStart => true
  | .frameDelivered w => waveOk w
  | .arbitrationLost w => waveOk w
  | .errorAbort w => waveOk w
  | .loadBuffer src _ data => sourceOk src && octetsOk data
  | .clearBuffer src => sourceOk src
  | .commitPage src _ _ => sourceOk src
  | .eraseSlot src _ => sourceOk src
  | .closeSlot src _ => sourceOk src
  | .readLibrary src _ _ _ _ => sourceOk src
  | .readOutcome src => sourceOk src
  | .enqueue src _ _ _ _ _ _ _ _ _ _ _ => sourceOk src
  | .cancel src _ => sourceOk src
  | .readQueue src => sourceOk src
  | .readOrder src _ _ => sourceOk src
  | .takeHead src _ => sourceOk src
  | .takeFeed src _ => sourceOk src
  | .reportMoved src _ => sourceOk src
  | .start src => sourceOk src
  | .stop src => sourceOk src
  | .endRun src => sourceOk src
  | .resume src => sourceOk src
  | .abort src => sourceOk src
  | .clearCauses src _ => sourceOk src
  | .reportStopped src => sourceOk src
  | .readStatus src _ => sourceOk src
  | .readCounters src _ => sourceOk src
  | .clearCounters src => sourceOk src
  | .reportBreak src _ => sourceOk src
  | .reportMended src _ => sourceOk src
  | .park src _ => sourceOk src
  | .unpark src _ => sourceOk src
  | .backstitch src _ => sourceOk src
  | .readHistory src _ => sourceOk src
  | .cutQuery src => sourceOk src
  | .cutDone src _ _ => sourceOk src
  | .reportSplice src _ => sourceOk src
  | .setSetting src _ value => sourceOk src && octetsOk value
  | .setRole src _ _ => sourceOk src
  | .writeSetup src => sourceOk src
  | .reloadSetup src => sourceOk src
  | .resetPart src => sourceOk src
  | .resetPartApply => true
  | .readSetting src _ => sourceOk src
  | .readTable src => sourceOk src
  | .frameNotForPart w => waveOk w
  | .notAStartMark m => lineCellOk m
  | .powerOff left => cellsOk left

end Sys2Proof
end

