-- ==== Sys2Proof/Decode.lean ====
section
/-! DEFINITION. Request frames and the commands they spell: the request table of chapter 11, read in both directions. The
opcode table itself gives no row any bits, so `decodeTableWord` spells nothing. -/

namespace Sys2Proof

/-- No row of spec/opcode_table.json gives bits. -/
def decodeTableWord (_nbits _w : Nat) : Option Instr := none

/-- Layouts are most significant octet first (chapter 11). -/
def octets16 (x : Word16) : List Byte := [x.extractLsb' 8 8, x.extractLsb' 0 8]

def octets24 (x : BitVec 24) : List Byte := [x.extractLsb' 16 8, x.extractLsb' 8 8, x.extractLsb' 0 8]

def octets32 (x : Word32) : List Byte :=
  [x.extractLsb' 24 8, x.extractLsb' 16 8, x.extractLsb' 8 8, x.extractLsb' 0 8]

def word16 (a b : Byte) : Word16 := a ++ b

def word24 (a b c : Byte) : BitVec 24 := a ++ b ++ c

def word32 (a b c d : Byte) : Word32 := a ++ b ++ c ++ d

/-- The request codes of chapter 11. -/
def requestCodes : List Byte :=
  [0x01, 0x02, 0x03, 0x04, 0x05, 0x06, 0x07, 0x10, 0x11, 0x12, 0x13, 0x20, 0x21, 0x22, 0x30, 0x31, 0x32, 0x33, 0x34, 0x35,
    0x36, 0x37, 0x38, 0x39] ++
  [0x40, 0x41, 0x42, 0x43, 0x44, 0x45, 0x50, 0x51, 0x52, 0x60, 0x61, 0x62, 0x63, 0x64, 0x65, 0x66]

/-- The request a frame spells; none where the code names no request or the number of parameter octets is not the
request's (R177). LOAD BUFFER and SET SETTING, whose number varies, are checked by their owners. -/
def decodeRequest (r : RequestFrame) : Option Instr :=
  match r.code.toNat, r.params with
  | 0x01, o :: data => some (.loadBuffer r.src o data)
  | 0x02, [] => some (.clearBuffer r.src)
  | 0x03, [s, p] => some (.commitPage r.src s p)
  | 0x04, [s] => some (.eraseSlot r.src s)
  | 0x05, [s] => some (.closeSlot r.src s)
  | 0x06, [s, p, o, c] => some (.readLibrary r.src s p o c)
  | 0x07, [] => some (.readOutcome r.src)
  | 0x10, [t1, t0, s, p1, p0, g1, g0, m, st, x1, x0, gr3, gr2, gr1, gr0, tc, tl, c] =>
      some (.enqueue r.src (word16 t1 t0) s (word16 p1 p0) (word16 g1 g0) m st (word16 x1 x0) (word32 gr3 gr2 gr1 gr0)
        tc tl c)
  | 0x11, [t1, t0] => some (.cancel r.src (word16 t1 t0))
  | 0x12, [] => some (.readQueue r.src)
  | 0x13, [t1, t0, p] => some (.readOrder r.src (word16 t1 t0) p)
  | 0x20, [a, b, c, d] => some (.takeHead r.src (word32 a b c d))
  | 0x21, [a, b, c, d] => some (.takeFeed r.src (word32 a b c d))
  | 0x22, [a, b, c, d] => some (.reportMoved r.src (word32 a b c d))
  | 0x30, [] => some (.start r.src)
  | 0x31, [] => some (.stop r.src)
  | 0x32, [] => some (.endRun r.src)
  | 0x33, [] => some (.resume r.src)
  | 0x34, [] => some (.abort r.src)
  | 0x35, [a, b] => some (.clearCauses r.src (word16 a b))
  | 0x36, [] => some (.reportStopped r.src)
  | 0x37, [p] => some (.readStatus r.src p)
  | 0x38, [f] => some (.readCounters r.src f)
  | 0x39, [] => some (.clearCounters r.src)
  | 0x40, [a, b, c, d] => some (.reportBreak r.src (word32 a b c d))
  | 0x41, [a, b, c, d] => some (.reportMended r.src (word32 a b c d))
  | 0x42, [a, b, c, d] => some (.park r.src (word32 a b c d))
  | 0x43, [a, b, c, d] => some (.unpark r.src (word32 a b c d))
  | 0x44, [n] => some (.backstitch r.src n)
  | 0x45, [a] => some (.readHistory r.src a)
  | 0x50, [] => some (.cutQuery r.src)
  | 0x51, [t1, t0, c] => some (.cutDone r.src (word16 t1 t0) c)
  | 0x52, [a, b, c, d] => some (.reportSplice r.src (word32 a b c d))
  | 0x60, c :: value => some (.setSetting r.src c value)
  | 0x61, [n, ro] => some (.setRole r.src n ro)
  | 0x62, [] => some (.writeSetup r.src)
  | 0x63, [] => some (.reloadSetup r.src)
  | 0x64, [] => some (.resetPart r.src)
  | 0x65, [c] => some (.readSetting r.src c)
  | 0x66, [] => some (.readTable r.src)
  | _, _ => none

/-- The frame of a request; none for a command that is not a request. -/
def encodeRequest : Instr → Option RequestFrame
  | .loadBuffer src o data => some ⟨src, 0x01, o :: data⟩
  | .clearBuffer src => some ⟨src, 0x02, []⟩
  | .commitPage src s p => some ⟨src, 0x03, [s, p]⟩
  | .eraseSlot src s => some ⟨src, 0x04, [s]⟩
  | .closeSlot src s => some ⟨src, 0x05, [s]⟩
  | .readLibrary src s p o c => some ⟨src, 0x06, [s, p, o, c]⟩
  | .readOutcome src => some ⟨src, 0x07, []⟩
  | .enqueue src tag s len gap m st x groups tc tl c =>
      some ⟨src, 0x10, octets16 tag ++ s :: octets16 len ++ octets16 gap ++ m :: st :: octets16 x ++ octets32 groups ++
        [tc, tl, c]⟩
  | .cancel src tag => some ⟨src, 0x11, octets16 tag⟩
  | .readQueue src => some ⟨src, 0x12, []⟩
  | .readOrder src tag p => some ⟨src, 0x13, octets16 tag ++ [p]⟩
  | .takeHead src x => some ⟨src, 0x20, octets32 x⟩
  | .takeFeed src x => some ⟨src, 0x21, octets32 x⟩
  | .reportMoved src x => some ⟨src, 0x22, octets32 x⟩
  | .start src => some ⟨src, 0x30, []⟩
  | .stop src => some ⟨src, 0x31, []⟩
  | .endRun src => some ⟨src, 0x32, []⟩
  | .resume src => some ⟨src, 0x33, []⟩
  | .abort src => some ⟨src, 0x34, []⟩
  | .clearCauses src cs => some ⟨src, 0x35, octets16 cs⟩
  | .reportStopped src => some ⟨src, 0x36, []⟩
  | .readStatus src p => some ⟨src, 0x37, [p]⟩
  | .readCounters src f => some ⟨src, 0x38, [f]⟩
  | .clearCounters src => some ⟨src, 0x39, []⟩
  | .reportBreak src g => some ⟨src, 0x40, octets32 g⟩
  | .reportMended src g => some ⟨src, 0x41, octets32 g⟩
  | .park src g => some ⟨src, 0x42, octets32 g⟩
  | .unpark src g => some ⟨src, 0x43, octets32 g⟩
  | .backstitch src n => some ⟨src, 0x44, [n]⟩
  | .readHistory src a => some ⟨src, 0x45, [a]⟩
  | .cutQuery src => some ⟨src, 0x50, []⟩
  | .cutDone src tag c => some ⟨src, 0x51, octets16 tag ++ [c]⟩
  | .reportSplice src w => some ⟨src, 0x52, octets32 w⟩
  | .setSetting src c v => some ⟨src, 0x60, c :: v⟩
  | .setRole src n ro => some ⟨src, 0x61, [n, ro]⟩
  | .writeSetup src => some ⟨src, 0x62, []⟩
  | .reloadSetup src => some ⟨src, 0x63, []⟩
  | .resetPart src => some ⟨src, 0x64, []⟩
  | .readSetting src c => some ⟨src, 0x65, [c]⟩
  | .readTable src => some ⟨src, 0x66, []⟩
  | .powerOn | .resetnAssert _ | .resetnRelease | .needleUp _ | .holdSeenChange _ _ | .stopSilenceExpiry
  | .resumeSettleEnd | .expansionEvent | .programStepComplete _ _ | .eraseComplete _ | .boundExpiry _
  | .progressIntervalEnd | .readComplete | .inboundFrame _ | .lineIdle _ | .frameHandOn | .frameStart
  | .frameDelivered _ | .arbitrationLost _ | .errorAbort _ | .resetPartApply | .frameNotForPart _ | .notAStartMark _
  | .powerOff _ => none

end Sys2Proof
end

