-- ==== Sys2Proof/Machine/State.lean ====
section
/-! DEFINITION. The state of the part, block by block as 00_scope.md names the blocks, and its value right after power-on.
Everything is plain data. -/

namespace Sys2Proof.Machine

/-! ### Settings (ST) -/

/-- The roles of the role table (00_scope.md, R170). -/
inductive Role where
  | supervisor | head | feed | thread | cutter | observer
  deriving DecidableEq, Repr

/-- One entry of the role table (R170). -/
structure RoleEntry where
  node : Nat
  role : Role
  deriving DecidableEq, Repr

/-- The working settings (R166). Lengths are in tenths, the cell time in microseconds, stop silence in milliseconds. -/
structure Settings where
  nodeNumber : Nat
  cellTime : Nat
  lineFilter : Bool
  travel : Nat
  homeLateral : Nat
  xMax : Nat
  yFwd : Nat
  yRev : Nat
  xJmax : Nat
  yJmax : Nat
  defStitch : Nat
  defTackCount : Nat
  defTackLength : Nat
  primeDepth : Nat
  leadLimit : Nat
  stopSilence : Nat
  spliceHalf : Nat
  protect : Word32
  roles : List RoleEntry
  deriving DecidableEq, Repr

/-- The built-in defaults (R166). -/
def Settings.defaults : Settings where
  nodeNumber := 1
  cellTime := 10
  lineFilter := true
  travel := 1200
  homeLateral := 600
  xMax := 60
  yFwd := 80
  yRev := 30
  xJmax := 120
  yJmax := 150
  defStitch := 35
  defTackCount := 2
  defTackLength := 8
  primeDepth := 6
  leadLimit := 2
  stopSilence := 300
  spliceHalf := 150
  protect := 0
  roles := [⟨0, .supervisor⟩]

/-! ### Pattern Library and Library Controller (PL) -/

/-- What a CLOSED slot's table entry holds besides its state (R16): header fields and summary (R11). -/
structure SlotInfo where
  segments : Nat
  stitch : Nat
  advance : Nat
  yReach : Nat
  xMin : Int
  xMax : Nat
  reverse : Bool
  deriving DecidableEq, Repr

/-- A slot table entry (R16). -/
inductive SlotEntry where
  | empty
  | opened
  | closed (info : SlotInfo)
  | failed
  deriving DecidableEq, Repr

/-- The ops of a segment (R5 to R9). -/
inductive SegmentOp where
  | run | jump | tack | groups | endOfBody
  deriving DecidableEq, Repr

/-- A segment as the read port hands it over (R3, chapter 11); `op` is none where the op byte names none. -/
structure Segment where
  op : Option SegmentOp
  a : Int
  b : Int
  override : Nat
  flags : Byte
  deriving DecidableEq, Repr

/-- The running position of a validation (R12, R14): the header's fields, the index of the next segment, and the extents of
the walk so far. -/
structure Walk where
  segments : Nat
  stitch : Nat
  index : Nat
  x : Int
  y : Int
  yReach : Int
  xMin : Int
  xMax : Int
  reverse : Bool
  deriving DecidableEq, Repr

/-- Reasons of a failed validation (R12, R13, R30). -/
inductive Reason where
  | badOp | badLength | noEnd | netDx | nonPositiveR | belowOrigin | count
  deriving DecidableEq, Repr

/-- Where the validation phase of a CLOSE SLOT stands: at the header, or at a segment (R27). -/
inductive Validation where
  | header
  | segment (walk : Walk)
  deriving DecidableEq, Repr

/-- What the operation in hand is, with its target and what it copied when it was accepted (R18, R24, R172). `cells` of a
commit are offsets of the page. A close has its `info` from the walk once validation has passed. -/
inductive OpWork where
  | commit (slot page : Nat) (cells : List Host.Cell)
  | erase (slot : Nat)
  | close (slot : Nat) (info : Option SlotInfo)
  | setup (copy : Settings) (zeroFailed : Bool)
  deriving DecidableEq, Repr

/-- The point the operation in hand has reached (R18). -/
inductive OpPoint where
  | validating (v : Validation)
  | stepping (step : ArrayStep)
  deriving DecidableEq, Repr

/-- The operation in hand (R18): whether a progress interval runs (R34) and whether the step is paused (R33). -/
structure Op where
  work : OpWork
  point : OpPoint
  interval : Bool
  suspended : Bool
  deriving DecidableEq, Repr

/-- The controller's states (R18). They are read off the operation in hand (`Library.state`). -/
inductive ControllerState where
  | idle | committing | erasing | closing | setupWrite | suspended
  deriving DecidableEq, Repr

/-- The operations an outcome record names (R30). -/
inductive OpName where
  | commitPage | eraseSlot | closeSlot | writeSetup | reloadSetup
  deriving DecidableEq, Repr

/-- How an operation ended (R30). -/
inductive OpResult where
  | done
  | failed
  | invalid (index : Nat) (reason : Reason)
  deriving DecidableEq, Repr

/-- The outcome record (R30): a target of none is the setup page; the page is there for COMMIT PAGE only. -/
structure OutcomeRecord where
  op : OpName
  target : Option Nat
  page : Option Nat
  result : OpResult
  deriving DecidableEq, Repr

/-- The reads of the start-up setup load and scan (R174, R15). -/
inductive ScanRead where
  | setup
  | page (slot page : Nat)
  | mark (slot : Nat)
  | header (slot : Nat)
  | segment (slot : Nat) (walk : Walk)
  deriving DecidableEq, Repr

/-- A read at the port, with its requester (R32). An expander read is not `live` once its context has been replaced (R57). -/
inductive ReadFor where
  | expander (slot segment : Nat) (live : Bool)
  | closing
  | written (slot page : Nat)
  | library (slot page offset count : Nat)
  | reload
  | scan (r : ScanRead)
  deriving DecidableEq, Repr

/-- The read port (R32): the read in flight and the reads that wait. -/
structure Port where
  inFlight : Option ReadFor
  expander : Option ReadFor
  closing : Option ReadFor
  line : Option ReadFor
  deriving DecidableEq, Repr

structure Library where
  /-- The array, as address and byte; an address not listed is blank. -/
  array : List Host.Cell
  table : List SlotEntry
  /-- The loaded offsets of the page buffer. -/
  pageBuffer : List Host.Cell
  op : Option Op
  outcome : Option OutcomeRecord
  failFlag : Bool
  port : Port
  deriving DecidableEq, Repr

/-! ### Panel Queue (PQ) -/

/-- Fitting of repeats into P (R39). -/
inductive Mode where
  | whole | truncate
  deriving DecidableEq, Repr

/-- A panel order: its fields (R39), its runtime part (R40) and its accumulators (R41). copies_left is always
copyLimit − copiesEnded (R40) and is computed. -/
structure Order where
  tag : Word16
  slot : Nat
  length : Nat
  gap : Nat
  mode : Mode
  stitch : Option Nat
  start : Nat
  groups : Word32
  tackCount : Option Nat
  tackLength : Option Nat
  copies : Nat
  copiesEnded : Nat
  copyLimit : Nat
  willClip : Bool
  clipped : Word16
  skipped : Word16
  rewinds : Word16
  spliceLate : Bool
  pendingLate : List Nat
  deriving DecidableEq, Repr

/-! ### Stitch Expander (SX) -/

/-- The phases of a copy (R54). -/
inductive Phase where
  | leadIn | body | endTack | runOut | done
  deriving DecidableEq, Repr

/-- The kinds of a tack group (R64). -/
inductive TackKind where
  | start | ending | explicit
  deriving DecidableEq, Repr

/-- A tack group being made: the index is that of its next record (R64). -/
structure TackPhase where
  kind : TackKind
  index : Nat
  count : Nat
  length : Nat
  deriving DecidableEq, Repr

/-- The expander context (R54). `steps` of 0 in BODY says that the segment at `segment` has not been begun. -/
structure Context where
  tag : Option Word16
  copy : Option Nat
  phase : Phase
  segment : Nat
  step : Nat
  steps : Nat
  baseLateral : Int
  baseY : Int
  tack : Option TackPhase
  panelY : Int
  intended : Int
  web : Word32
  panelStart : Word32
  mask : Word32
  seam : Bool
  cutMark : Option Word32
  stitch : Nat
  tackCount : Nat
  tackLength : Nat
  deriving DecidableEq, Repr

/-- Hold reasons of the expander (R55). -/
inductive HoldReason where
  | windowFull | cutReserveFull | queueEmpty | endRequested
  deriving DecidableEq, Repr

/-- Expander states (R55). -/
inductive ExpanderState where
  | idle
  | expanding
  | holding (why : HoldReason)
  deriving DecidableEq, Repr

structure Expander where
  context : Context
  state : ExpanderState
  /-- Segments in hand (R57), with their indices, in the order the expansion meets them. -/
  hand : List (Nat × Segment)
  checkpoint : Option Context
  deriving DecidableEq, Repr

/-! ### Stitch Window (SW) -/

/-- Record kinds (R81). -/
inductive Kind where
  | sew | tack | jump | reposition
  deriving DecidableEq, Repr

/-- Record flags (R81). -/
structure RecordFlags where
  first : Bool
  last : Bool
  clipped : Bool
  replay : Bool
  skipped : Bool
  deriving DecidableEq, Repr

/-- A stitch record (R81). -/
structure Record where
  serial : Word32
  kind : Kind
  dx : Int
  dy : Int
  lateral : Int
  web : Word32
  planned : Word32
  effective : Option Word32
  tag : Word16
  copy : Nat
  flags : RecordFlags
  takenHead : Bool
  takenFeed : Bool
  movedHead : Bool
  movedFeed : Bool
  context : Option Context
  deriving DecidableEq, Repr

structure Window where
  /-- The ring, oldest first. -/
  ring : List Record
  /-- REPLAY records that wait to join, in the order BACKSTITCH built them; their serials are given on joining (R95). -/
  waiting : List Record
  counter : Word32
  headNext : Word32
  feedNext : Word32
  leadLimit : Nat
  deriving DecidableEq, Repr

/-! ### Run Control (RC) -/

/-- Run states (R98). -/
inductive RunState where
  | standby | priming | run | halting | halted
  deriving DecidableEq, Repr

/-- Causes, in the order of their bits (chapter 11). -/
inductive Cause where
  | threadBreak | lateTake | starved | cutBacklog | spliceLate | spliceOverflow | holdExternal | supervisorStop | motion
  deriving DecidableEq, Repr

/-- The counters Run Control holds: indices 0 to 7 and 13 (R117). -/
structure RunCounters where
  stitches : Word32
  completed : Word32
  aborted : Word32
  clipped : Word32
  skipped : Word32
  lateTakes : Word32
  coasts : Word32
  idleCycles : Word32
  suspensions : Word32
  deriving DecidableEq, Repr

def RunCounters.zero : RunCounters := ⟨0, 0, 0, 0, 0, 0, 0, 0, 0⟩

structure RunControl where
  state : RunState
  /-- The cause set, bits 0 to 8 (chapter 11). -/
  causes : Word16
  endRequested : Bool
  /-- The stop-silence timer: none when stopped, else the milliseconds it was started with (R104). -/
  silence : Option Nat
  holdDriven : Bool
  holdSeen : Bool
  openCopy : Option (Word16 × Nat)
  counters : RunCounters
  deriving DecidableEq, Repr

/-! ### Groups and History (GH) -/

/-- A history entry (R127). -/
structure HistoryEntry where
  serial : Word32
  kind : Kind
  dx : Int
  dy : Int
  lateral : Int
  web : Word32
  effective : Word32
  tag : Word16
  copy : Nat
  flags : RecordFlags
  deriving DecidableEq, Repr

structure Groups where
  broken : Word32
  parked : Word32
  /-- Oldest first. -/
  history : List HistoryEntry
  /-- The rewind barrier, as the number of entries newer than it: h of R129. -/
  rewindable : Nat
  deriving DecidableEq, Repr

/-! ### Web Tracker (WT) -/

/-- A cut list entry (R141). The clipped, skipped and rewound flags are set exactly when their counts are above 0, and are
computed. -/
structure CutEntry where
  tag : Word16
  copy : Nat
  web : Word32
  clipped : Word16
  skipped : Word16
  rewinds : Word16
  spliceLate : Bool
  deriving DecidableEq, Repr

/-- A cut reservation (R142). -/
structure Reservation where
  tag : Word16
  copy : Nat
  cutMark : Word32
  serial : Word32
  deriving DecidableEq, Repr

/-- A splice zone (R147). -/
structure Zone where
  first : Word32
  last : Word32
  deriving DecidableEq, Repr

structure Web where
  web : Word32
  lateral : Int
  newest : Option (Word16 × Nat)
  cuts : List CutEntry
  reservations : List Reservation
  zones : List Zone
  deriving DecidableEq, Repr

/-! ### Settings block -/

/-- The start-up state (R174); while scanning, the slots classified so far. -/
inductive StartUp where
  | scanning (found : List SlotEntry)
  | ready
  deriving DecidableEq, Repr

structure SettingsBlock where
  working : Settings
  /-- The setup-defaults flag. -/
  defaults : Bool
  startUp : StartUp
  deriving DecidableEq, Repr

/-! ### Line Port (LP) -/

/-- Bit engine states (chapter 09). RECEIVING and PULSING are passed through inside one step and never rest between steps. -/
inductive BitEngine where
  | silent | busy | idle | sending | receiving | pulsing
  deriving DecidableEq, Repr

/-- Frame kinds (chapter 11). -/
inductive FrameKind where
  | request | answer | announce
  deriving DecidableEq, Repr

/-- What becomes of the settings in force, and of the part, once an answer has been delivered or discarded (R152, R168,
R175). -/
structure AfterFrame where
  node : Option Nat
  cellTime : Option Nat
  filter : Option Bool
  reset : Bool
  deriving DecidableEq, Repr

def AfterFrame.none : AfterFrame := ⟨.none, .none, .none, false⟩

/-- A frame in the outbound queue (R163). -/
structure OutFrame where
  destination : NodeId
  kind : FrameKind
  code : Byte
  params : List Byte
  priority : Nat
  aborts : Nat
  after : AfterFrame
  deriving DecidableEq, Repr

/-- What a request in service waits for (R160): its owner's step, the WRITTEN read, a line-request read, RELOAD SETUP's read,
or a RESUME's settle. -/
inductive ServicePhase where
  | handed | written | library | reload | settle
  deriving DecidableEq, Repr

/-- The request handed on and not answered yet, with the role its node held at the role check (R160, R161). -/
structure Service where
  request : Instr
  node : NodeId
  role : Role
  phase : ServicePhase
  deriving DecidableEq, Repr

/-- Which place the frame on the line came from; general places are numbered in order of joining. -/
inductive SendingPlace where
  | state
  | general (index : Nat)
  deriving DecidableEq, Repr

/-- The frame being sent (R164, R165): the octets it began with, and whether its STATE place was given newer content since. -/
structure Sending where
  place : SendingPlace
  octets : List Byte
  broadcast : Bool
  replaced : Bool
  deriving DecidableEq, Repr

/-- Where a RESET PART stands: accepted, or due once its answer is gone (R175). -/
inductive ResetPart where
  | none | accepted | due
  deriving DecidableEq, Repr

/-- What the part drove on the line during the last frame: for each octet it received, whether it acknowledged it, and
whether it drove an error pulse (R155, R156). -/
structure LineOut where
  acknowledged : List Bool
  pulsed : Bool
  deriving DecidableEq, Repr

/-- The counters the Line Port holds: indices 8 to 12 (R117). -/
structure LineCounters where
  bitErrors : Word32
  refusals : Word32
  losses : Word32
  undelivered : Word32
  dropped : Word32
  deriving DecidableEq, Repr

def LineCounters.zero : LineCounters := ⟨0, 0, 0, 0, 0⟩

structure LinePort where
  engine : BitEngine
  cellTime : Nat
  filter : Bool
  node : Nat
  /-- The last frame on the line was the part's own: it waits for 10 T (R165). -/
  ownWait : Bool
  /-- Complete frames, oldest first (R160). -/
  inbound : List RequestFrame
  service : Option Service
  /-- Frames in general places, in order of joining (R163). -/
  general : List OutFrame
  statePlace : Option OutFrame
  sending : Option Sending
  resetPart : ResetPart
  lineOut : LineOut
  counters : LineCounters
  deriving DecidableEq, Repr

/-! ### The whole -/

/-- The supply and RESETN. -/
structure Pins where
  supply : Bool
  resetnLow : Bool
  deriving DecidableEq, Repr

/-- Why a step could stop the part with a fault: nothing in the spec does, so there is no reason. -/
inductive Fault where
  deriving DecidableEq, Repr

/-- Why a step could be refused. -/
inductive Refusal where
  /-- Raised by exec for a command without a meaning; no arm uses it. Safe: the model stops. -/
  | notModelled (mnemonic : String)
  deriving DecidableEq, Repr

structure State where
  pins : Pins
  lp : LinePort
  pl : Library
  queue : List Order
  sx : Expander
  sw : Window
  rc : RunControl
  gh : Groups
  wt : Web
  st : SettingsBlock
  /-- The commands that wait, first in first out. -/
  pending : List Instr
  deriving DecidableEq, Repr

/-- A port with nothing in flight and nothing waiting (R37). -/
def Port.quiet : Port := ⟨none, none, none, none⟩

/-- The context after a reset (R54), for the home lateral in force. -/
def Context.afterReset (home : Nat) : Context where
  tag := none
  copy := none
  phase := .done
  segment := 0
  step := 0
  steps := 0
  baseLateral := 0
  baseY := 0
  tack := none
  panelY := 0
  intended := home
  web := 0
  panelStart := 0
  mask := 0
  seam := false
  cutMark := none
  stitch := 0
  tackCount := 0
  tackLength := 0

/-- The Library Controller after any reset (R37): the array is kept, the slot table is as given. -/
def Library.afterReset (array : List Host.Cell) (table : List SlotEntry) : Library where
  array := array
  table := table
  pageBuffer := []
  op := none
  outcome := none
  failFlag := false
  port := .quiet

def Expander.afterReset (home : Nat) : Expander := ⟨.afterReset home, .idle, [], none⟩

/-- The window after any reset (R97). -/
def Window.afterReset (leadLimit : Nat) : Window := ⟨[], [], 1, 1, 1, leadLimit⟩

/-- Run Control after any reset (R98). -/
def RunControl.afterReset : RunControl := ⟨.standby, 0, false, none, false, false, none, .zero⟩

/-- Groups and History after any reset (R122, R127, R129). -/
def Groups.afterReset : Groups := ⟨0, 0, [], 0⟩

/-- The Web Tracker after any reset (R139, R141, R142, R147). -/
def Web.afterReset (home : Nat) : Web := ⟨0, home, none, [], [], []⟩

/-- The Line Port after any reset (R160, R163, R98). -/
def LinePort.afterReset (engine : BitEngine) (st : Settings) : LinePort where
  engine := engine
  cellTime := st.cellTime
  filter := st.lineFilter
  node := st.nodeNumber
  ownWait := false
  inbound := []
  service := none
  general := []
  statePlace := none
  sending := none
  resetPart := .none
  lineOut := ⟨[], false⟩
  counters := .zero

/-- Every block at its values after power-on or RESETN, over the array as it stands (R174): SCANNING, silent on the line,
nothing read yet. The settings stand at the built-in defaults until the setup load decides them. -/
def State.held (pins : Pins) (array : List Host.Cell) (pending : List Instr) : State where
  pins := pins
  lp := .afterReset .silent .defaults
  pl := .afterReset array []
  queue := []
  sx := .afterReset Settings.defaults.homeLateral
  sw := .afterReset Settings.defaults.leadLimit
  rc := .afterReset
  gh := .afterReset
  wt := .afterReset Settings.defaults.homeLateral
  st := ⟨.defaults, true, .scanning []⟩
  pending := pending

/-- Start-up begins: the setup page is being read (R174). -/
def State.startUp (array : List Host.Cell) (pending : List Instr) : State :=
  let s := State.held ⟨true, false⟩ array pending
  { s with pl := { s.pl with port := { s.pl.port with inFlight := some (.scan .setup) } } }

/-- The machine right after power-on, over an array as shipped: every byte blank. -/
def State.reset : State := State.startUp [] []

end Sys2Proof.Machine
end

