-- ==== Sys2Proof/Machine/Ops.lean ====
section
/-! DEFINITION. The named operations over the state that several blocks share: the array and the page buffer, the orderings
of positions and serials, exact arithmetic, and one setter for each block. -/

namespace Sys2Proof.Machine

/-! ### Listed bytes -/

/-- The byte listed at an address. -/
def cellAt : List Host.Cell → Nat → Option Byte
  | [], _ => none
  | c :: rest, a => if c.1 = a then some c.2 else cellAt rest a

/-- The list with one byte listed, in rising order of address. -/
def setCell : List Host.Cell → Nat → Byte → List Host.Cell
  | [], a, v => [(a, v)]
  | c :: rest, a, v =>
    if a < c.1 then (a, v) :: c :: rest
    else if a = c.1 then (a, v) :: rest
    else c :: setCell rest a v

/-- The list without an address. -/
def dropCell (cells : List Host.Cell) (a : Nat) : List Host.Cell := cells.filter fun c => c.1 != a

/-- Addresses strictly rising. -/
def risingCells (cells : List Host.Cell) : Bool := decide (cells.Pairwise fun a b => a.1 < b.1)

/-! ### The array -/

/-- What a byte that nothing has written reads as: blank (R2; log 1). -/
def blankByte : Byte := 0xFF

/-- One byte of the array. -/
def arrayByte (mem : List Host.Cell) (a : Nat) : Byte := (cellAt mem a).getD blankByte

/-- The array with one byte at a value. -/
def arraySet (mem : List Host.Cell) (a : Nat) (v : Byte) : List Host.Cell :=
  if v = blankByte then dropCell mem a else setCell mem a v

/-- The canonical form: rising addresses, no entry that is blank. -/
def Memory.wf (mem : List Host.Cell) : Bool := risingCells mem && mem.all fun c => c.2 != blankByte

/-- `count` bytes of the array from an address up. -/
def arrayBytes (mem : List Host.Cell) (a : Nat) : Nat → List Byte
  | 0 => []
  | n + 1 => arrayByte mem a :: arrayBytes mem (a + 1) n

/-- Programming a byte leaves a 1 bit exactly where the byte and the value both have one (R2). -/
def arrayProgram (mem : List Host.Cell) (a : Nat) (w : Byte) : List Host.Cell := arraySet mem a (arrayByte mem a &&& w)

/-- Erasing a unit makes every byte of it blank (R2). -/
def arrayErase (mem : List Host.Cell) (base size : Nat) : List Host.Cell :=
  mem.filter fun c => !(decide (base ≤ c.1) && decide (c.1 < base + size))

/-- Every byte of a span is blank. -/
def spanBlank (mem : List Host.Cell) (base size : Nat) : Bool :=
  mem.all fun c => !(decide (base ≤ c.1) && decide (c.1 < base + size) && c.2 != blankByte)

/-- Where a slot, a page of it, and the setup page lie (R2; log 25). -/
def slotBase (slot : Nat) : Nat := slot * Config.slotBytes

def pageBase (slot page : Nat) : Nat := slotBase slot + page * Config.pageBytes

def setupBase : Nat := Config.slotCount * Config.slotBytes

/-- The slot mark's byte, and the summary area (R11, chapter 11). -/
def markAddress (slot : Nat) : Nat := slotBase slot + 31

/-- Where segment i of a slot lies (R3). -/
def segmentAddress (slot i : Nat) : Nat :=
  if i < 28 then slotBase slot + 32 + 8 * i
  else pageBase slot (1 + (i - 28) / 32) + 8 * ((i - 28) % 32)

/-! ### Orderings (R1, R80) -/

/-- a lies before b. -/
def liesBefore (a b : Word32) : Bool := decide (0 < (b - a).toInt)

/-- a lies at or before b. -/
def liesAtOrBefore (a b : Word32) : Bool := decide (0 ≤ (b - a).toInt)

/-- a lies after b. At a distance of 2^31 the difference is negative both ways, so each lies after the other. -/
def liesAfter (a b : Word32) : Bool := decide ((b - a).toInt < 0)

/-- a lies at or after b. -/
def liesAtOrAfter (a b : Word32) : Bool := decide ((b - a).toInt ≤ 0)

/-- The serial after one; 0 is never given (R80). -/
def nextSerial (s : Word32) : Word32 := if s = BitVec.allOnes 32 then 1 else s + 1

/-- The serial before one. -/
def prevSerial (s : Word32) : Word32 := if s = 1 then BitVec.allOnes 32 else s - 1

/-- The number of serials given after a up to and including b (R80). -/
def serialDistance (a b : Word32) : Nat :=
  if a.toNat ≤ b.toNat then b.toNat - a.toNat else (b - a).toNat - 1

/-! ### Exact arithmetic -/

def clampInt (v lo hi : Int) : Int := if v < lo then lo else if hi < v then hi else v

def clampNat (v lo hi : Nat) : Nat := if v < lo then lo else if hi < v then hi else v

/-- The quotient rounded up. -/
def ceilDiv (p n : Nat) : Nat := (p + n - 1) / n

/-- The quotient rounded to the nearer whole number, halves away from zero (R58). -/
def rdiv (p : Int) (n : Nat) : Int :=
  let q : Int := ((2 * p.natAbs + n) / (2 * n) : Nat)
  if 0 ≤ p then q else -q

/-- A web position moved by a feed (modulo 2^32). -/
def moveWeb (web : Word32) (dy : Int) : Word32 := web + BitVec.ofInt 32 dy

/-! ### Group sets and cause sets -/

def hasBit {w : Nat} (set : BitVec w) (i : Nat) : Bool := set.getLsbD i

/-- The number of each cause's bit (chapter 11). -/
def Cause.index : Cause → Nat
  | .threadBreak => 0
  | .lateTake => 1
  | .starved => 2
  | .cutBacklog => 3
  | .spliceLate => 4
  | .spliceOverflow => 5
  | .holdExternal => 6
  | .supervisorStop => 7
  | .motion => 8

def Cause.bit (c : Cause) : Word16 := BitVec.twoPow 16 c.index

/-! ### Setters, one for each block -/

def State.setPins (s : State) (x : Pins) : State := { s with pins := x }
def State.setLp (s : State) (x : LinePort) : State := { s with lp := x }
def State.setPl (s : State) (x : Library) : State := { s with pl := x }
def State.setQueue (s : State) (x : List Order) : State := { s with queue := x }
def State.setSx (s : State) (x : Expander) : State := { s with sx := x }
def State.setSw (s : State) (x : Window) : State := { s with sw := x }
def State.setRc (s : State) (x : RunControl) : State := { s with rc := x }
def State.setGh (s : State) (x : Groups) : State := { s with gh := x }
def State.setWt (s : State) (x : Web) : State := { s with wt := x }
def State.setSt (s : State) (x : SettingsBlock) : State := { s with st := x }
def State.setPending (s : State) (x : List Instr) : State := { s with pending := x }

/-! ### When the part takes events -/

/-- The part has its supply and is not held in reset (R174). -/
def State.powered (s : State) : Bool := s.pins.supply && !s.pins.resetnLow

/-- Start-up has reached READY (R174). -/
def State.ready (s : State) : Bool := s.powered && decide (s.st.startUp = .ready)

/-- An event that a part without supply, or held in reset, does not take (log 5). -/
def whenPowered (s : State) (f : State → State) : State := if s.powered then f s else s

/-- An event that is not taken during SCANNING either (R98, R100, R159). -/
def whenReady (s : State) (f : State → State) : State := if s.ready then f s else s

/-! ### Finding orders and slots -/

/-- The queued order with a tag (R38: tags are unique in the queue). -/
def findOrder (queue : List Order) (tag : Word16) : Option Order := queue.find? fun o => o.tag == tag

/-- The queue with the order of a tag changed. -/
def updateOrder (queue : List Order) (tag : Word16) (f : Order → Order) : List Order :=
  queue.map fun o => if o.tag == tag then f o else o

/-- The queue without the order of a tag; those behind it move up (R38). -/
def removeOrder (queue : List Order) (tag : Word16) : List Order := queue.filter fun o => o.tag != tag

/-- The first order behind the one with a tag. -/
def orderAfter (queue : List Order) (tag : Word16) : Option Order :=
  ((queue.dropWhile fun o => o.tag != tag).drop 1).head?

/-- A queued order names the slot. -/
def slotInUse (queue : List Order) (slot : Nat) : Bool := queue.any fun o => o.slot == slot

/-- The number of the copy whose records retire next (R40). -/
def Order.currentCopy (o : Order) : Nat := o.copiesEnded + 1

/-- Copies still to end (R40). -/
def Order.copiesLeft (o : Order) : Nat := o.copyLimit - o.copiesEnded

/-- The slot table's entry; a table without entries (SCANNING) shows none. -/
def tableEntry (table : List SlotEntry) (slot : Nat) : Option SlotEntry := table[slot]?

/-- The entry's fields where the slot is CLOSED. -/
def closedInfo (table : List SlotEntry) (slot : Nat) : Option SlotInfo :=
  match tableEntry table slot with
  | some (.closed info) => some info
  | _ => none

/-! ### The window -/

/-- The oldest serial; the counter's value when the window is empty (chapter 05, *Window state*). -/
def Window.oldest (w : Window) : Word32 := (w.ring.head?.map Record.serial).getD w.counter

/-- The record of a serial in the ring. -/
def Window.find (w : Window) (serial : Word32) : Option Record := w.ring.find? fun r => r.serial == serial

/-- A record joins the ring's tail with the next serial (R80, R81). -/
def Window.join (w : Window) (r : Record) : Window :=
  { w with ring := w.ring ++ [{ r with serial := w.counter }], counter := nextSerial w.counter }

/-- Waiting REPLAY records join while places are free (R79, R95). -/
def Window.joinWaiting (w : Window) : Nat → Window
  | 0 => w
  | n + 1 =>
    match w.waiting with
    | [] => w
    | r :: rest =>
      if w.ring.length < Config.windowSize then (({ w with waiting := rest } : Window).join r).joinWaiting n else w

/-- The window with the record of a serial changed. -/
def Window.update (w : Window) (serial : Word32) (f : Record → Record) : Window :=
  { w with ring := w.ring.map fun r => if r.serial == serial then f r else r }

end Sys2Proof.Machine
end

