-- ==== Sys2Proof/Machine/Flags.lean ====
section
/-! DEFINITION. Every flag the part computes, and the octets that carry flags (chapter 11). -/

namespace Sys2Proof.Machine

/-- Bits of an octet, the first given as bit 0. -/
def flagOctet (bits : List Bool) : Byte :=
  BitVec.ofNat 8 (bits.foldr (fun b n => 2 * n + b.toNat) 0)

/-- A flag sent as 0x00 or 0x01. -/
def boolOctet (b : Bool) : Byte := if b then 1 else 0

/-- Record flags: FIRST, LAST, CLIPPED, REPLAY, SKIPPED (chapter 11). -/
def RecordFlags.octet (f : RecordFlags) : Byte := flagOctet [f.first, f.last, f.clipped, f.replay, f.skipped]

/-- No flag. -/
def RecordFlags.clear : RecordFlags := ⟨false, false, false, false, false⟩

/-- Some repeat of the pattern would reach past 0 or travel at Xs (R44). -/
def clipExpected (start travel : Nat) (info : SlotInfo) : Bool :=
  decide ((start : Int) + info.xMin < 0) || decide (travel < start + info.xMax)

/-- The order after a change of travel (R44): Xs clamped, will-clip computed again where the slot is CLOSED. -/
def Order.withTravel (o : Order) (travel : Nat) (table : List SlotEntry) : Order :=
  let start := min o.start travel
  { o with
    start := start
    willClip := match closedInfo table o.slot with
      | some info => clipExpected start travel info
      | none => o.willClip }

/-- The current copy of the order is open: a record of it stands in the window, or one has retired and the copy has not
ended (R49). -/
def Order.isOpen (o : Order) (ring : List Record) (openCopy : Option (Word16 × Nat)) : Bool :=
  (ring.any fun r => r.tag == o.tag && r.copy == o.currentCopy) || decide (openCopy = some (o.tag, o.currentCopy))

/-- A web position lies in a zone (R85, R147). -/
def Zone.holds (z : Zone) (w : Word32) : Bool := liesAtOrAfter w z.first && liesAtOrBefore w z.last

/-- SKIPPED is fixed for a SEW or TACK record whose web position lies in a zone (R85). -/
def skips (zones : List Zone) (kind : Kind) (web : Word32) : Bool :=
  (kind == .sew || kind == .tack) && zones.any fun z => z.holds web

/-- Flags of READ STATUS part RUN: end-requested, HOLD driven, HOLD seen asserted. -/
def RunControl.flagOctet (rc : RunControl) : Byte :=
  Machine.flagOctet [rc.endRequested, rc.holdDriven, rc.holdSeen]

/-- Flags of READ STATUS part LIBRARY: fail flag, setup-defaults flag. -/
def libraryFlagOctet (fail defaults : Bool) : Byte := flagOctet [fail, defaults]

/-- Flags of CUT QUERY: clipped, skipped, rewound (set when their counts are above 0, R141), splice-late. -/
def CutEntry.flagOctet (e : CutEntry) : Byte :=
  Machine.flagOctet [e.clipped != 0, e.skipped != 0, e.rewinds != 0, e.spliceLate]

/-- The fields ENQUEUE changed: G, S, Xs, tack count, tack length (R43). -/
def changedOctet (gap stitch start tackCount tackLength : Bool) : Byte :=
  flagOctet [gap, stitch, start, tackCount, tackLength]

/-- The pending map of READ ORDER part PROGRESS: bit i stands for copy current + 1 + i. -/
def pendingMap (current : Nat) (late : List Nat) : Word16 :=
  late.foldl (fun m c => if current < c then m ||| BitVec.twoPow 16 (c - current - 1) else m) 0

/-- A cause is in the set. -/
def hasCause (causes : Word16) (c : Cause) : Bool := hasBit causes c.index

/-- Nine cells of an octet slot hold an odd number of 1 bits (R155). -/
def oddParity (bits : List Bool) : Bool := (bits.filter id).length % 2 == 1

/-- The parity bit that makes them so. -/
def parityBit (x : Byte) : Bool := !oddParity ((List.range 8).map fun i => x.getLsbD i)

end Sys2Proof.Machine
end

