-- ==== Sys2Proof/Machine/Operands.lean ====
section
/-! DEFINITION. The forms in which values are given to the part and come back from it: segments, headers and summaries in the
array, the setup page and the setting codes, and the codes of answers, states and records (chapter 11). -/

namespace Sys2Proof.Machine

/-! ### Octets -/

/-- A Nat in 1, 2, 3 or 4 octets, most significant first. -/
def octet (n : Nat) : List Byte := [BitVec.ofNat 8 n]
def octetsNat16 (n : Nat) : List Byte := octets16 (BitVec.ofNat 16 n)
def octetsNat24 (n : Nat) : List Byte := octets24 (BitVec.ofNat 24 n)
def octetsInt16 (i : Int) : List Byte := octets16 (BitVec.ofInt 16 i)
def octetsInt32 (i : Int) : List Byte := octets32 (BitVec.ofInt 32 i)

/-- The unsigned value of octets, most significant first. -/
def natOfOctets (bs : List Byte) : Nat := bs.foldl (fun n b => 256 * n + b.toNat) 0

/-! ### Segments (chapter 11) -/

def segmentOp (code : Byte) : Option SegmentOp :=
  match code.toNat with
  | 0x01 => some .run
  | 0x02 => some .jump
  | 0x03 => some .tack
  | 0x04 => some .groups
  | 0x0F => some .endOfBody
  | _ => none

/-- The segment in the 8 bytes at an address; byte 7 is free and not read (R176). -/
def readSegment (mem : List Host.Cell) (a : Nat) : Segment where
  op := segmentOp (arrayByte mem a)
  a := (word16 (arrayByte mem (a + 1)) (arrayByte mem (a + 2))).toInt
  b := (word16 (arrayByte mem (a + 3)) (arrayByte mem (a + 4))).toInt
  override := (arrayByte mem (a + 5)).toNat
  flags := arrayByte mem (a + 6)

/-- The groups a GROUPS segment names: a carries groups 0 to 15, b groups 16 to 31 (R8). -/
def segmentMask (g : Segment) : Word32 := BitVec.ofInt 16 g.b ++ BitVec.ofInt 16 g.a

/-! ### Header and summary (chapter 11) -/

def headerSegments (mem : List Host.Cell) (slot : Nat) : Nat :=
  (word16 (arrayByte mem (slotBase slot + 12)) (arrayByte mem (slotBase slot + 13))).toNat

def headerStitch (mem : List Host.Cell) (slot : Nat) : Nat := (arrayByte mem (slotBase slot + 14)).toNat

/-- The slot marks (R10). -/
def markOpened : Byte := 0x7E
def markClosed : Byte := 0x3C
def markVoid : Byte := 0x00

/-- The place of a mark in the order blank, OPENED, CLOSED, VOID; none when unrecognised (R10). -/
def markRank (m : Byte) : Option Nat :=
  if m = blankByte then some 0
  else if m = markOpened then some 1
  else if m = markClosed then some 2
  else if m = markVoid then some 3
  else none

/-- A mark write programs only a target that comes later than the mark found, or an unrecognised mark (R10). -/
def markProgrammed (found target : Byte) : Bool :=
  match markRank found, markRank target with
  | some f, some t => decide (f < t)
  | _, _ => true

/-- The bytes of the five summary fields, offsets 16 to 30 of page 0. -/
def summaryBytes (info : SlotInfo) : List Byte :=
  octets32 (BitVec.ofNat 32 info.advance) ++ octetsNat24 info.yReach ++ octetsInt32 info.xMin ++ octetsNat24 info.xMax ++
    [boolOctet info.reverse]

/-- The bytes with their addresses from one up. -/
def placeBytes (a : Nat) : List Byte → List Host.Cell
  | [] => []
  | b :: rest => (a, b) :: placeBytes (a + 1) rest

def summaryCells (slot : Nat) (info : SlotInfo) : List Host.Cell := placeBytes (slotBase slot + 16) (summaryBytes info)

/-- The stored summary equals the computed one in every field (R15, R176). -/
def summaryMatches (mem : List Host.Cell) (slot : Nat) (info : SlotInfo) : Bool :=
  arrayBytes mem (slotBase slot + 16) 15 == summaryBytes info

/-! ### Roles and setting codes -/

def Role.code : Role → Byte
  | .supervisor => 1
  | .head => 2
  | .feed => 3
  | .thread => 4
  | .cutter => 5
  | .observer => 6

def roleOfCode (c : Byte) : Option Role :=
  match c.toNat with
  | 1 => some .supervisor
  | 2 => some .head
  | 3 => some .feed
  | 4 => some .thread
  | 5 => some .cutter
  | 6 => some .observer
  | _ => none

/-- SUPERVISOR, HEAD, FEED and CUTTER stand at most once in the table (R170). -/
def Role.single : Role → Bool
  | .supervisor | .head | .feed | .cutter => true
  | .thread | .observer => false

/-- The width in octets of a setting that SET SETTING can change; none for a code that names no setting, and for the role
table (chapter 11). -/
def settingWidth (code : Byte) : Option Nat :=
  match code.toNat with
  | 0x04 | 0x05 | 0x10 | 0x11 => some 2
  | 0x12 => some 4
  | 0x01 | 0x02 | 0x03 | 0x06 | 0x07 | 0x08 | 0x09 | 0x0A | 0x0B | 0x0C | 0x0D | 0x0E | 0x0F => some 1
  | _ => none

/-- The value in force of a setting, as a number. -/
def Settings.value (st : Settings) (code : Byte) : Nat :=
  match code.toNat with
  | 0x01 => st.nodeNumber
  | 0x02 => st.cellTime
  | 0x03 => st.lineFilter.toNat
  | 0x04 => st.travel
  | 0x05 => st.homeLateral
  | 0x06 => st.xMax
  | 0x07 => st.yFwd
  | 0x08 => st.yRev
  | 0x09 => st.xJmax
  | 0x0A => st.yJmax
  | 0x0B => st.defStitch
  | 0x0C => st.defTackCount
  | 0x0D => st.defTackLength
  | 0x0E => st.primeDepth
  | 0x0F => st.leadLimit
  | 0x10 => st.stopSilence
  | 0x11 => st.spliceHalf
  | 0x12 => st.protect.toNat
  | _ => 0

/-- A tack count as it is stored: odd values rounded down, above 6 gives 6 (R43, R166). -/
def storedTackCount (n : Nat) : Nat := if 6 < n then 6 else n - n % 2

/-- The settings with one value stored, changed as the last column of R166 gives. -/
def Settings.store (st : Settings) (code : Byte) (v : Nat) : Settings :=
  match code.toNat with
  | 0x01 => { st with nodeNumber := v }
  | 0x02 => { st with cellTime := clampNat v 4 250 }
  | 0x03 => { st with lineFilter := v != 0 }
  | 0x04 => { st with travel := clampNat v 100 3000, homeLateral := min st.homeLateral (clampNat v 100 3000) }
  | 0x05 => { st with homeLateral := clampNat v 0 st.travel }
  | 0x06 => { st with xMax := clampNat v 1 120 }
  | 0x07 => { st with yFwd := clampNat v 1 120 }
  | 0x08 => { st with yRev := clampNat v 0 60 }
  | 0x09 => { st with xJmax := clampNat v 1 250 }
  | 0x0A => { st with yJmax := clampNat v 1 250 }
  | 0x0B => { st with defStitch := clampNat v 10 100 }
  | 0x0C => { st with defTackCount := storedTackCount v }
  | 0x0D => { st with defTackLength := clampNat v 1 20 }
  | 0x0E => { st with primeDepth := clampNat v 1 16 }
  | 0x0F => { st with leadLimit := clampNat v 1 4 }
  | 0x10 => { st with stopSilence := clampNat v 50 2000 }
  | 0x11 => { st with spliceHalf := clampNat v 0 500 }
  | 0x12 => { st with protect := BitVec.ofNat 32 v }
  | _ => st

/-- A value SET SETTING refuses outright: a node number above 30, a line filter other than off and on (R167). -/
def settingRefused (code : Byte) (v : Nat) : Bool :=
  (code == 0x01 && decide (30 < v)) || (code == 0x03 && decide (1 < v))

/-- A number in the octets of a width of 1, 2 or 4. -/
def octetsOfWidth (width n : Nat) : List Byte :=
  if width = 4 then octets32 (BitVec.ofNat 32 n) else if width = 2 then octetsNat16 n else octet n

/-! ### The setup page (chapter 11) -/

/-- The role table entries of the page, as many as counted. -/
def pageRoles (mem : List Host.Cell) : Nat → Nat → List (Nat × Option Role)
  | 0, _ => []
  | n + 1, i =>
    ((arrayByte mem (setupBase + 28 + 2 * i)).toNat, roleOfCode (arrayByte mem (setupBase + 29 + 2 * i))) ::
      pageRoles mem n (i + 1)

/-- The role table of counted entries that all name a role. -/
def rolesOf : List (Nat × Option Role) → Option (List RoleEntry)
  | [] => some []
  | (n, some r) :: rest => (rolesOf rest).map fun t => ⟨n, r⟩ :: t
  | (_, none) :: _ => none

/-- No node twice, no single role twice, exactly one SUPERVISOR, nodes 0 to 30 (R171). -/
def roleTableOk (t : List RoleEntry) : Bool :=
  (t.all fun e => decide (e.node ≤ 30)) && decide (t.Pairwise fun a b => a.node ≠ b.node) &&
    decide (t.Pairwise fun a b => ¬ (a.role = b.role ∧ a.role.single = true)) &&
    decide ((t.filter fun e => e.role == .supervisor).length = 1)

/-- The settings the page holds when the test of R171 passes; else which of its tests failed first: 0x00 for the signature,
or the code of the first field out of range (R173). -/
def readSetupPage (mem : List Host.Cell) : Except Byte Settings :=
  let b1 (o : Nat) : Nat := (arrayByte mem (setupBase + o)).toNat
  let b2 (o : Nat) : Nat := natOfOctets (arrayBytes mem (setupBase + o) 2)
  let within (v lo hi : Nat) : Bool := decide (lo ≤ v) && decide (v ≤ hi)
  let count := b1 27
  let table := if count ≤ Config.roleSize then rolesOf (pageRoles mem count 0) else none
  let tests : List (Byte × Bool) :=
    [(0x00, b1 0 == 0xC3 && b1 1 == 0x5A), (0x01, within (b1 2) 0 30), (0x02, within (b1 3) 4 250),
      (0x03, within (b1 4) 0 1), (0x04, within (b2 5) 100 3000), (0x05, within (b2 7) 0 (b2 5)),
      (0x06, within (b1 9) 1 120), (0x07, within (b1 10) 1 120), (0x08, within (b1 11) 0 60),
      (0x09, within (b1 12) 1 250), (0x0A, within (b1 13) 1 250), (0x0B, within (b1 14) 10 100)] ++
    [(0x0C, b1 15 == 0 || b1 15 == 2 || b1 15 == 4 || b1 15 == 6), (0x0D, within (b1 16) 1 20),
      (0x0E, within (b1 17) 1 16), (0x0F, within (b1 18) 1 4), (0x10, within (b2 19) 50 2000),
      (0x11, within (b2 21) 0 500), (0x13, (table.map roleTableOk).getD false)]
  match tests.find? fun t => !t.2 with
  | some t => .error t.1
  | none => .ok
      { nodeNumber := b1 2, cellTime := b1 3, lineFilter := b1 4 != 0, travel := b2 5, homeLateral := b2 7, xMax := b1 9,
        yFwd := b1 10, yRev := b1 11, xJmax := b1 12, yJmax := b1 13, defStitch := b1 14, defTackCount := b1 15,
        defTackLength := b1 16, primeDepth := b1 17, leadLimit := b1 18, stopSilence := b2 19, spliceHalf := b2 21,
        protect := BitVec.ofNat 32 (natOfOctets (arrayBytes mem (setupBase + 23) 4)), roles := table.getD [] }

/-- The fields WRITE SETUP programs, from offset 2 to the last counted role table entry (R172). -/
def setupFieldBytes (st : Settings) : List Byte :=
  octet st.nodeNumber ++ octet st.cellTime ++ [boolOctet st.lineFilter] ++ octetsNat16 st.travel ++
    octetsNat16 st.homeLateral ++ octet st.xMax ++ octet st.yFwd ++ octet st.yRev ++ octet st.xJmax ++ octet st.yJmax ++
    octet st.defStitch ++ octet st.defTackCount ++ octet st.defTackLength ++ octet st.primeDepth ++ octet st.leadLimit ++
    octetsNat16 st.stopSilence ++ octetsNat16 st.spliceHalf ++ octets32 st.protect ++ octet st.roles.length ++
    st.roles.flatMap fun e => [BitVec.ofNat 8 e.node, e.role.code]

/-! ### Answer statuses and codes (chapter 11) -/

inductive Status where
  | ok | okClamped | okRepeat | okLate | trimmed | badParam | refusedState | refusedRole | unknownRequest | busy
  | isProtected | inUse | reservedArea | written | empty | duplicate | notClosed | patternUnfit | notFound | notReady
  | gone | outOfSequence | brokenGroups | noDrives | causesPending | held | repositionPending | nothingToRewind | full
  deriving DecidableEq, Repr

def Status.code : Status → Byte
  | .ok => 0x00
  | .okClamped => 0x01
  | .okRepeat => 0x02
  | .okLate => 0x03
  | .trimmed => 0x04
  | .badParam => 0x10
  | .refusedState => 0x11
  | .refusedRole => 0x12
  | .unknownRequest => 0x13
  | .busy => 0x14
  | .isProtected => 0x15
  | .inUse => 0x16
  | .reservedArea => 0x17
  | .written => 0x18
  | .empty => 0x19
  | .duplicate => 0x1A
  | .notClosed => 0x1B
  | .patternUnfit => 0x1C
  | .notFound => 0x1D
  | .notReady => 0x1E
  | .gone => 0x1F
  | .outOfSequence => 0x20
  | .brokenGroups => 0x21
  | .noDrives => 0x22
  | .causesPending => 0x23
  | .held => 0x24
  | .repositionPending => 0x25
  | .nothingToRewind => 0x26
  | .full => 0x27

def RunState.code : RunState → Byte
  | .standby => 0
  | .priming => 1
  | .run => 2
  | .halting => 3
  | .halted => 4

def ExpanderState.code : ExpanderState → Byte
  | .idle => 0
  | .expanding => 1
  | .holding .windowFull => 2
  | .holding .cutReserveFull => 3
  | .holding .queueEmpty => 4
  | .holding .endRequested => 5

def ControllerState.code : ControllerState → Byte
  | .idle => 0
  | .committing => 1
  | .erasing => 2
  | .closing => 3
  | .setupWrite => 4
  | .suspended => 5

def SlotEntry.code : SlotEntry → Nat
  | .empty => 0
  | .opened => 1
  | .closed _ => 2
  | .failed => 3

def Kind.code : Kind → Byte
  | .sew => 1
  | .tack => 2
  | .jump => 3
  | .reposition => 4

def OpName.code : OpName → Byte
  | .commitPage => 0x03
  | .eraseSlot => 0x04
  | .closeSlot => 0x05
  | .writeSetup => 0x62
  | .reloadSetup => 0x63

def Reason.code : Reason → Byte
  | .badOp => 1
  | .badLength => 2
  | .noEnd => 3
  | .netDx => 4
  | .nonPositiveR => 5
  | .belowOrigin => 6
  | .count => 7

/-- Reasons of a STATE announcement (R120). -/
inductive StateReason where
  | startUp | start | primed | cause (c : Cause) | stopped | silence | resume | runComplete | abort | backstitch
  deriving DecidableEq, Repr

def StateReason.code : StateReason → Byte
  | .startUp => 0
  | .start => 1
  | .primed => 2
  | .cause _ => 3
  | .stopped => 4
  | .silence => 5
  | .resume => 6
  | .runComplete => 7
  | .abort => 8
  | .backstitch => 9

/-- The cause raised: its bit number, or 0xFF for a reason other than CAUSE. -/
def StateReason.raised : StateReason → Byte
  | .cause c => BitVec.ofNat 8 c.index
  | _ => 0xFF

/-- Four slots to an octet, slot 0 in bits 7 to 6 of the first (READ STATUS part LIBRARY). -/
def slotStateOctets : List SlotEntry → List Byte
  | a :: b :: c :: d :: rest =>
    BitVec.ofNat 8 (64 * a.code + 16 * b.code + 4 * c.code + d.code) :: slotStateOctets rest
  | _ => []

end Sys2Proof.Machine
end

