-- ==== Sys2Proof/Machine/Line.lean ====
section
/-! DEFINITION. The plan line from cell to frame (R152 to R159): how the part reads a cell, receives a frame, drives a frame,
and judges an attempt of its own. All times are nanoseconds; the cell time T is in microseconds, so 0.01 T is 10 T ns. -/

namespace Sys2Proof.Machine

/-- A hundredth of the cell time, in nanoseconds. -/
def hundredth (cellTime : Nat) : Nat := 10 * cellTime

/-! ### The line filter (R152; log 35) -/

/-- A level shorter than 2 µs, which the part ignores with the filter on. -/
def shortLevel (ns : Nat) : Bool := decide (ns < Config.filterNs)

/-- The recessive level after the cell's dominant is too short to be seen. -/
def gapShort (c : LineCell) : Bool := c.next.any fun t => shortLevel (t - c.dominant)

/-- The cell with the one that follows it on the line taken in: both dominants run together (`joined`), or the second one is
ignored. -/
def takeIn (c d : LineCell) (joined : Bool) : LineCell :=
  ⟨if joined then c.next.getD 0 + d.dominant else c.dominant, c.next.bind fun t => d.next.map fun u => t + u⟩

/-- The cells after a first one as the filter shows them. -/
def seenAfter (c : LineCell) : List LineCell → List LineCell
  | [] => [c]
  | d :: rest =>
    if gapShort c then seenAfter (takeIn c d true) rest
    else if shortLevel d.dominant then seenAfter (takeIn c d false) rest
    else c :: seenAfter d rest

/-- Cells that begin on a recessive line, as the filter shows them. -/
def seenCells : List LineCell → List LineCell
  | [] => []
  | c :: rest => if shortLevel c.dominant then seenCells rest else seenAfter c rest

/-- The start mark and the cells the part sees. -/
def seenLine (filter : Bool) (w : Wave) : List LineCell :=
  if filter then seenCells (w.mark :: w.cells) else w.mark :: w.cells

/-! ### Cells and start marks -/

/-- The next cell's edge comes 0.85 T to 1.25 T after this one's (R153). -/
def edgeInTime (cellTime : Nat) (c : LineCell) : Bool :=
  match c.next with
  | none => false
  | some t => decide (85 * hundredth cellTime ≤ t) && decide (t ≤ 125 * hundredth cellTime)

/-- No edge comes before 0.85 T; that none comes is no error in the final cell of a frame (R153). -/
def edgeNotEarly (cellTime : Nat) (c : LineCell) : Bool := c.next.all fun t => decide (85 * hundredth cellTime ≤ t)

/-- The reading of a cell; none is a cell error (R153). In the final cell of a frame only an early edge is one. -/
def readCell (cellTime : Nat) (c : LineCell) (final : Bool) : Option Bool :=
  if (if final then edgeNotEarly cellTime c else edgeInTime cellTime c) = false then none
  else if 12 * hundredth cellTime ≤ c.dominant ∧ c.dominant ≤ 38 * hundredth cellTime then some true
  else if 50 * hundredth cellTime ≤ c.dominant ∧ c.dominant ≤ 80 * hundredth cellTime then some false
  else none

/-- A start mark: dominant 2.7 T to 3.3 T, first cell 3.85 T to 4.25 T after its edge (R154). -/
def startMarkOk (cellTime : Nat) (m : LineCell) : Bool :=
  decide (270 * hundredth cellTime ≤ m.dominant) && decide (m.dominant ≤ 330 * hundredth cellTime) &&
    (match m.next with
     | none => false
     | some t => decide (385 * hundredth cellTime ≤ t) && decide (t ≤ 425 * hundredth cellTime))

/-- The line is still dominant at 0.44 T after the cell's edge (R157, R158). -/
def dominantAtSample (cellTime : Nat) (c : LineCell) : Bool := decide (44 * hundredth cellTime < c.dominant)

/-! ### Driving a frame (R152, R154, R155) -/

/-- The bits of an octet, most significant first. -/
def octetBits (x : Byte) : List Bool :=
  [x.getLsbD 7, x.getLsbD 6, x.getLsbD 5, x.getLsbD 4, x.getLsbD 3, x.getLsbD 2, x.getLsbD 1, x.getLsbD 0]

/-- The octet of eight bits, most significant first. -/
def octetOfBits (bits : List Bool) : Byte := BitVec.ofNat 8 (bits.foldl (fun n b => 2 * n + b.toNat) 0)

/-- A cell as a transmitter drives it: dominant for 0.25 T for a 1, for 0.625 T for a 0; the next cell T after its edge. -/
def driveCell (cellTime : Nat) (b final : Bool) : LineCell :=
  ⟨if b then 25 * hundredth cellTime else 125 * hundredth cellTime / 2,
    if final then none else some (100 * hundredth cellTime)⟩

/-- An octet slot as it stands on the line: eight bits, parity, LAST mark, and the response cell, which a receiver that
acknowledges turns into a 0. -/
def driveSlot (cellTime : Nat) (x : Byte) (last acknowledged : Bool) : List LineCell :=
  (octetBits x ++ [parityBit x, last]).map (fun b => driveCell cellTime b false) ++
    [driveCell cellTime (!acknowledged) last]

/-- The octet slots of a frame, each octet with whether it is acknowledged. -/
def driveSlots (cellTime : Nat) : List (Byte × Bool) → List LineCell
  | [] => []
  | [(x, a)] => driveSlot cellTime x true a
  | (x, a) :: rest => driveSlot cellTime x false a ++ driveSlots cellTime rest

/-- A whole frame: the start mark of 3 T, the first cell 4 T after its edge, and the octet slots. -/
def driveFrame (cellTime : Nat) (octets : List (Byte × Bool)) : Wave :=
  ⟨⟨300 * hundredth cellTime, some (400 * hundredth cellTime)⟩, driveSlots cellTime octets⟩

/-! ### Receiving a frame (R159, R160) -/

/-- Where the part stands in a frame it receives. `receiving` is the RECEIVING state of the inbound slot it has claimed
(R160), with the octets from octet 3 on. -/
inductive Reception where
  | first
  | second (octet1 : Byte)
  | passing
  | receiving (src : NodeId) (octets : List Byte)
  deriving DecidableEq, Repr

/-- What the part looks at: its timing and node number in force, and whether an inbound slot is free. -/
structure Receiver where
  cellTime : Nat
  node : Nat
  slotFree : Bool
  deriving DecidableEq, Repr

/-- What a reception came to. -/
structure Received where
  bitErrors : Nat
  refusals : Nat
  acknowledged : List Bool
  pulsed : Bool
  frame : Option RequestFrame
  deriving DecidableEq, Repr

def Received.start : Received := ⟨0, 0, [], false, none⟩

/-- A cell error: the part drives an error pulse and counts one bit error; the frame has no effect and its slot is freed
(R153, R156, R160). -/
def Received.error (r : Received) : Received :=
  { r with bitErrors := r.bitErrors + 1, pulsed := true, frame := none }

/-- What the part does with one octet: acknowledge it or not, and where it stands then. -/
structure OctetVerdict where
  acknowledge : Bool
  next : Reception
  refusals : Nat
  deriving DecidableEq, Repr

/-- The source node of octet 1, the destination and the kind of octet 2 (chapter 11). -/
def octetSource (octet1 : Byte) : NodeId := octet1.extractLsb' 0 5
def octetDestination (octet2 : Byte) : NodeId := octet2.extractLsb' 3 5
def octetKind (octet2 : Byte) : BitVec 2 := octet2.extractLsb' 0 2

/-- Octet 1 or octet 2 fails its parity check, which counts one bit error (R159, step 1). It is counted when cell 9 has been
read, whatever the cells after it bring. -/
def parityErrors (at' : Reception) (parity : Bool) : Nat :=
  match at' with
  | .first | .second _ => if parity then 0 else 1
  | .passing | .receiving _ _ => 0

/-- The decisions of R159. -/
def judgeOctet (v : Receiver) (at' : Reception) (x : Byte) (parity last : Bool) : OctetVerdict :=
  match at' with
  | .first => ⟨false, if parity then .second x else .passing, 0⟩
  | .second octet1 =>
    if parity = false then ⟨false, .passing, 0⟩
    else if (octetDestination x).toNat ≠ v.node ∨ octetDestination x = 31#5 then ⟨false, .passing, 0⟩
    else if octetKind x ≠ 1#2 ∨ octetSource octet1 = 31#5 ∨ last = true then ⟨false, .passing, 0⟩
    else if v.slotFree then ⟨true, .receiving (octetSource octet1) [], 0⟩
    else ⟨false, .passing, 1⟩
  | .passing => ⟨false, .passing, 0⟩
  | .receiving src octets =>
    if parity && decide (octets.length + 3 ≤ Config.frameOctets) then ⟨true, .receiving src (octets ++ [x]), 0⟩
    else ⟨false, .passing, 0⟩

/-- The frame a slot holds when the octet with the LAST mark has been acknowledged (R160). -/
def Reception.complete : Reception → Option RequestFrame
  | .receiving src (code :: params) => some ⟨src, code, params⟩
  | _ => none

/-- `n` cells read one after another, none of them final; none on a cell error. -/
def readCells (v : Receiver) : Nat → List LineCell → Option (List Bool × List LineCell)
  | 0, cells => some ([], cells)
  | _ + 1, [] => none
  | n + 1, c :: rest =>
    match readCell v.cellTime c false, readCells v n rest with
    | some b, some (bs, rest') => some (b :: bs, rest')
    | _, _ => none

/-- The response cell as it stands when the part acknowledges: dominant to 0.625 T at least (R155). -/
def stretched (v : Receiver) (acknowledge : Bool) (c : LineCell) : LineCell :=
  if acknowledge then { c with dominant := max c.dominant (125 * hundredth v.cellTime / 2) } else c

/-- Octet slot after octet slot, to the LAST mark or to a cell error. The first argument bounds the number of octets. -/
def receiveSlots (v : Receiver) : Nat → Reception → List LineCell → Received → Received
  | 0, _, _, r => r.error
  | n + 1, at', cells, r =>
    match readCells v 9 cells with
    | none => r.error
    | some (bits, rest) =>
      let parity := oddParity bits
      let r := { r with bitErrors := r.bitErrors + parityErrors at' parity }
      match readCells v 1 rest with
      | some ([last], c :: rest) =>
        let verdict := judgeOctet v at' (octetOfBits (bits.take 8)) parity last
        let r := { r with
          refusals := r.refusals + verdict.refusals
          acknowledged := r.acknowledged ++ [verdict.acknowledge] }
        if (readCell v.cellTime (stretched v verdict.acknowledge c) last).isNone then r.error
        else if last then { r with frame := verdict.next.complete }
        else receiveSlots v n verdict.next rest r
      | _ => r.error

/-- A frame received from octet 1 on. -/
def receiveFrame (v : Receiver) (cells : List LineCell) : Received :=
  receiveSlots v (cells.length / 11 + 1) .first cells .start

/-! ### An attempt of the part's own (R157, R158) -/

/-- What the part watches for in a cell it sends. -/
inductive Watch where
  | arbitration | unwatched | plain | response (addressed : Bool)
  deriving DecidableEq, Repr

/-- The end of an attempt (R158, R165). -/
inductive AttemptEnd where
  | delivered | lost | collision | errorSeen | refused
  deriving DecidableEq, Repr

/-- The cells of one octet slot, with what is watched in each: arbitration in the first eight cells of octet 1, everything
from octet 2 on. -/
def sentSlot (first broadcast last : Bool) (x : Byte) : List (Bool × Watch) :=
  if first then
    (octetBits x).map (fun b => (b, Watch.arbitration)) ++
      [(parityBit x, .unwatched), (last, .unwatched), (true, .unwatched)]
  else
    (octetBits x ++ [parityBit x, last]).map (fun b => (b, Watch.plain)) ++ [(true, .response (!broadcast))]

def sentCells (broadcast : Bool) : Bool → List Byte → List (Bool × Watch)
  | _, [] => []
  | first, [x] => sentSlot first broadcast true x
  | first, x :: rest => sentSlot first broadcast false x ++ sentCells broadcast false rest

/-- The cell is an error already when the part samples it at 0.44 T: at its release, or at an early edge (R153). -/
def errorBeforeSample (cellTime : Nat) (c : LineCell) : Bool :=
  decide (c.dominant < 12 * hundredth cellTime) ||
    (decide (38 * hundredth cellTime < c.dominant) && !dominantAtSample cellTime c) ||
    (c.next.any fun t => decide (t ≤ 44 * hundredth cellTime))

/-- How an attempt ends, from the cells sent and the cells the part sees. `ahead` is how long the own cell in hand began after
the edge of the first cell seen: above 0 where no edge was seen at the own cell's beginning, as with a 1 that the filter hides
(R152). The next own cell begins at the next edge seen by 1.25 T, or else T later (R152; log 22). A response cell recessive at
its sample is a refusal though an early edge follows within it, which is the model's choice (log 22). -/
def judgeAttempt (cellTime : Nat) : Nat → List (Bool × Watch) → List LineCell → AttemptEnd
  | _, [], _ => .delivered
  | _, _ :: _, [] => .errorSeen
  | ahead, (b, watch) :: sent, c :: line =>
    let good := decide (ahead = 0) && (readCell cellTime c sent.isEmpty).isSome
    let dominant := decide (ahead + 44 * hundredth cellTime < c.dominant)
    let onward :=
      if c.next.any fun t => decide (ahead + 125 * hundredth cellTime < t) then
        judgeAttempt cellTime (ahead + 100 * hundredth cellTime) sent (c :: line)
      else judgeAttempt cellTime 0 sent line
    match watch with
    | .arbitration => if b && dominant then .lost else onward
    | .unwatched => onward
    | .plain => if b && dominant then .collision else if good then onward else .errorSeen
    | .response addressed =>
      if addressed && decide (ahead = 0) && !dominant && !errorBeforeSample cellTime c then .refused
      else if good then onward else .errorSeen

end Sys2Proof.Machine
end

