-- ==== Sys2Proof/Machine/Port.lean ====
section
/-! DEFINITION. The Line Port above the bit engine: the role check, the request in service and its answer, the announcements,
and the outbound queue (R160 to R165). -/

namespace Sys2Proof.Machine

/-! ### Line counters -/

def addCount (x : Word32) : Nat → Word32
  | 0 => x
  | n + 1 => addCount (saturatingSucc x) n

def LinePort.countErrors (lp : LinePort) (n : Nat) : LinePort :=
  { lp with counters := { lp.counters with bitErrors := addCount lp.counters.bitErrors n } }

/-! ### The general places (R163) -/

/-- A general place is free: those held by frames and the one claimed for the request in service are fewer than 5. -/
def LinePort.placeFree (lp : LinePort) : Bool :=
  decide (lp.general.length + lp.service.isSome.toNat < Config.generalSize)

/-- A PANEL_DONE takes a free general place, or is dropped and counted (R121, R163). -/
def LinePort.offerAnnouncement (lp : LinePort) (f : OutFrame) : LinePort :=
  if lp.placeFree then { lp with general := lp.general ++ [f] }
  else { lp with counters := { lp.counters with dropped := saturatingSucc lp.counters.dropped } }

/-- The priority of an answer: 1 for HEAD and FEED, 3 otherwise (R161, R163). -/
def answerPriority (role : Option Role) : Nat :=
  match role with
  | some .head | some .feed => 1
  | _ => 3

/-- An answer enters the place claimed for it (R160, R163); no request is in service then. -/
def LinePort.answerTo (lp : LinePort) (node : NodeId) (role : Option Role) (status : Status) (params : List Byte)
    (after : AfterFrame) : LinePort :=
  { lp with
    service := none
    general := lp.general ++ [⟨node, .answer, status.code, params, answerPriority role, 0, after⟩] }

/-- The request in service is answered, with what follows once the answer is gone. -/
def answerThen (sv : Service) (status : Status) (params : List Byte) (after : AfterFrame) (s : State) : State :=
  s.setLp (s.lp.answerTo sv.node (some sv.role) status params after)

/-- The request in service is answered. -/
def answer (sv : Service) (status : Status) (params : List Byte) (s : State) : State :=
  answerThen sv status params .none s

/-- The request in service waits for something before its answer (R160). -/
def State.serviceWaits (s : State) (sv : Service) (phase : ServicePhase) : State :=
  s.setLp { s.lp with service := some { sv with phase := phase } }

/-- The request in service, where it waits for the given thing. -/
def State.waitingService (s : State) (phase : ServicePhase) : Option Service :=
  s.lp.service.filter fun sv => sv.phase == phase

/-! ### Announcements (R120, R121, R164) -/

/-- The content of a STATE announcement (R120, chapter 11). -/
def stateOctets (s : State) (reason : StateReason) : List Byte :=
  [s.rc.state.code] ++ octets16 s.rc.causes ++ [boolOctet s.rc.endRequested] ++ octets32 s.sw.oldest ++
    [reason.code, reason.raised]

def stateFrame (s : State) (reason : StateReason) : OutFrame :=
  ⟨31#5, .announce, 0x80, stateOctets s reason, 0, 0, .none⟩

/-- A STATE enters the STATE place; newer content replaces what is there (R164). -/
def announceState (reason : StateReason) (s : State) : State :=
  s.setLp { s.lp with
    statePlace := some (stateFrame s reason)
    sending := s.lp.sending.map fun x => if x.place = .state then { x with replaced := true } else x }

/-- The content of a PANEL_DONE (R121, R178): for a completed copy its cut mark and counts follow. -/
def panelDoneOctets (tag : Word16) (copy copiesLeft : Nat) (cut : Option CutEntry) : List Byte :=
  octets16 tag ++ octet copy ++ [if cut.isSome then 0 else 1] ++ octet copiesLeft ++
    (match cut with
     | none => []
     | some e => octets32 e.web ++ octets16 e.clipped ++ octets16 e.skipped ++ octets16 e.rewinds ++
         [boolOctet e.spliceLate])

def announcePanelDone (tag : Word16) (copy copiesLeft : Nat) (cut : Option CutEntry) (s : State) : State :=
  s.setLp (s.lp.offerAnnouncement ⟨31#5, .announce, 0x81, panelDoneOctets tag copy copiesLeft cut, 2, 0, .none⟩)

/-! ### The role check (R161) -/

/-- The roles a request permits; none where the code names no request. -/
def permittedRoles (code : Byte) : Option (List Role) :=
  let anyRole : List Role := [.supervisor, .head, .feed, .thread, .cutter, .observer]
  match code.toNat with
  | 0x01 | 0x02 | 0x03 | 0x04 | 0x05 => some [.supervisor]
  | 0x06 | 0x07 => some anyRole
  | 0x10 | 0x11 => some [.supervisor]
  | 0x12 | 0x13 => some anyRole
  | 0x20 => some [.head]
  | 0x21 => some [.feed]
  | 0x22 => some [.head, .feed]
  | 0x30 | 0x31 | 0x32 | 0x33 | 0x34 | 0x35 => some [.supervisor]
  | 0x36 => some [.head]
  | 0x37 | 0x38 => some anyRole
  | 0x39 => some [.supervisor]
  | 0x40 | 0x41 => some [.thread]
  | 0x42 | 0x43 | 0x44 => some [.supervisor]
  | 0x45 => some anyRole
  | 0x50 => some [.cutter, .supervisor]
  | 0x51 => some [.cutter]
  | 0x52 => some [.feed]
  | 0x60 | 0x61 | 0x62 | 0x63 | 0x64 => some [.supervisor]
  | 0x65 | 0x66 => some anyRole
  | _ => none

/-- The role the table gives a node. -/
def roleOfNode (roles : List RoleEntry) (node : Nat) : Option Role :=
  (roles.find? fun e => e.node == node).map RoleEntry.role

/-- The Line Port hands a frame on: it is refused by the role check, answered BAD_PARAM for its number of parameter octets,
or passed to its owner (R160, R161, R177). -/
def handOn (r : RequestFrame) (s : State) : State :=
  let role := roleOfNode s.st.working.roles r.src.toNat
  match permittedRoles r.code with
  | none => s.setLp (s.lp.answerTo r.src role .unknownRequest [r.code] .none)
  | some permitted =>
    match role with
    | none => s.setLp (s.lp.answerTo r.src none .refusedRole [0] .none)
    | some role =>
      if role ∈ permitted then
        match decodeRequest r with
        | none => s.setLp (s.lp.answerTo r.src (some role) .badParam [] .none)
        | some c => s.setLp { s.lp with service := some ⟨c, r.src, role, .handed⟩ }
      else s.setLp (s.lp.answerTo r.src (some role) .refusedRole [role.code] .none)

/-- A complete frame can be handed on: no earlier one waits for its answer, a general place is free, and no RESET PART has
been accepted (R160). -/
def State.canHandOn (s : State) : Bool :=
  s.lp.service.isNone && s.lp.placeFree && decide (s.lp.resetPart = .none)

/-- The owner takes the request the Line Port has handed on to it. A request command given while no frame waits in an inbound
slot and no request is in service stands for a frame of its own, handed on in the same step (log 4). -/
def takeRequest (c : Instr) (own : Service → State → State) (s : State) : State :=
  whenReady s fun s =>
    let s :=
      match encodeRequest c with
      | some r => if s.canHandOn && s.lp.inbound.isEmpty then handOn r s else s
      | none => s
    match s.lp.service with
    | some sv => if sv.request = c ∧ sv.phase = .handed then own sv s else s
    | none => s

/-! ### Sending (R155, R164, R165) -/

/-- The octets of a frame as it is sent by a node (R155). -/
def OutFrame.octets (f : OutFrame) (node : Nat) : List Byte :=
  let kind : BitVec 2 := match f.kind with
    | .request => 1
    | .answer => 2
    | .announce => 3
  (BitVec.ofNat 3 f.priority ++ BitVec.ofNat 5 node) :: (f.destination ++ 0#1 ++ kind) :: f.code :: f.params

/-- The first general place of the lowest priority number from an index on, with its frame. -/
def firstOfLowest : Nat → List OutFrame → Option (Nat × OutFrame)
  | _, [] => none
  | i, f :: rest =>
    match firstOfLowest (i + 1) rest with
    | none => some (i, f)
    | some (j, g) => if g.priority < f.priority then some (j, g) else some (i, f)

/-- The frame sent next: lowest priority number, oldest among equals; STATE is 0 and alone there (R163, R165). -/
def LinePort.chooseFrame (lp : LinePort) : Option (SendingPlace × OutFrame) :=
  match lp.statePlace with
  | some f => some (.state, f)
  | none => (firstOfLowest 0 lp.general).map fun p => (.general p.1, p.2)

/-- What follows once a frame is delivered or discarded: a new node number, cell time or filter comes into force, a RESET PART
becomes due (R152, R168, R175). -/
def LinePort.afterFrame (lp : LinePort) (a : AfterFrame) : LinePort :=
  { lp with
    node := a.node.getD lp.node
    cellTime := a.cellTime.getD lp.cellTime
    filter := a.filter.getD lp.filter
    resetPart := if a.reset then .due else lp.resetPart }

/-- The frame in flight leaves its place, which is freed (R165); a STATE place whose content was replaced keeps it (R164). -/
def LinePort.releasePlace (lp : LinePort) (x : Sending) : LinePort :=
  match x.place with
  | .state => if x.replaced then lp else { lp with statePlace := none }
  | .general i =>
    match lp.general[i]? with
    | none => lp
    | some f => ({ lp with general := lp.general.eraseIdx i } : LinePort).afterFrame f.after

/-- An error abort: the abort count goes up by one; at the third the frame is discarded and counted (R165). -/
def LinePort.abortPlace (lp : LinePort) (x : Sending) : LinePort :=
  let count (lp : LinePort) : LinePort :=
    { lp with counters := { lp.counters with undelivered := saturatingSucc lp.counters.undelivered } }
  match x.place with
  | .state =>
    match lp.statePlace with
    | none => lp
    | some f =>
      if f.aborts + 1 < Config.abortLimit then { lp with statePlace := some { f with aborts := f.aborts + 1 } }
      else count { lp with statePlace := none }
  | .general i =>
    match lp.general[i]? with
    | none => lp
    | some f =>
      if f.aborts + 1 < Config.abortLimit then { lp with general := lp.general.set i { f with aborts := f.aborts + 1 } }
      else count (lp.releasePlace x)

/-- The receiver's view of the part (R159). -/
def LinePort.receiver (lp : LinePort) : Receiver :=
  ⟨lp.cellTime, lp.node, decide (lp.inbound.length < Config.inboundSize)⟩

/-- What a reception changes: counters, the inbound buffer, and the bit engine, which waits for an idle line (R159, R160). -/
def LinePort.takeReceived (lp : LinePort) (r : Received) : LinePort :=
  { lp with
    engine := .busy
    ownWait := false
    inbound := lp.inbound ++ r.frame.toList
    lineOut := ⟨r.acknowledged, r.pulsed⟩
    counters := { lp.counters with
      bitErrors := addCount lp.counters.bitErrors r.bitErrors
      refusals := addCount lp.counters.refusals r.refusals } }

/-- A dominant on an idle line that is no start mark: counted, no pulse, and the line must be idle again (R154). -/
def LinePort.badMark (lp : LinePort) : LinePort := { lp.countErrors 1 with engine := .busy, lineOut := ⟨[], false⟩ }

/-- What a receiver makes of the start mark and the cells it sees: the frame is received, or refused whole where its start mark is
none (R154, R159). -/
def LinePort.receiveSeen (lp : LinePort) : List LineCell → LinePort
  | [] => lp
  | m :: cells => if startMarkOk lp.cellTime m then lp.takeReceived (receiveFrame lp.receiver cells) else lp.badMark

/-- A frame of another node on the line, as the part sees and receives it. It is received only from an idle line (R154). -/
def LinePort.receive (lp : LinePort) (w : Wave) : LinePort :=
  if lp.engine ≠ .idle then lp else lp.receiveSeen (seenLine lp.filter w)

/-- How an attempt at a frame ends, from what the part sees on the line from its start mark on (R157, R158). -/
def LinePort.attemptEnd (lp : LinePort) (x : Sending) (w : Wave) : AttemptEnd :=
  judgeAttempt lp.cellTime 0 (sentCells x.broadcast true x.octets) (seenLine lp.filter w).tail

/-- The end of an attempt of the part's own (R157, R158, R165). A part that has lost arbitration receives the frame as any other
receiver does, and refuses it where its start mark has become none (R157, R154). -/
def LinePort.endAttempt (lp : LinePort) (w : Wave) : LinePort :=
  match lp.sending with
  | none => lp
  | some x =>
    let ended : LinePort := { lp with sending := none, engine := .busy, ownWait := true, lineOut := ⟨[], false⟩ }
    match lp.attemptEnd x w with
    | .delivered => ended.releasePlace x
    | .lost =>
      let lost : LinePort :=
        { ended with ownWait := false, counters := { ended.counters with losses := saturatingSucc ended.counters.losses } }
      lost.receiveSeen (seenLine lp.filter w)
    | .collision => (ended.countErrors 1).abortPlace x
    | .errorSeen => ({ ended.countErrors 1 with lineOut := ⟨[], true⟩ } : LinePort).abortPlace x
    | .refused => ended.abortPlace x

/-- The part starts a frame on an idle line (R165). -/
def LinePort.startFrame (lp : LinePort) : LinePort :=
  if lp.engine = .idle ∧ lp.ownWait = false ∧ lp.sending = none then
    match lp.chooseFrame with
    | none => lp
    | some (place, f) =>
      { lp with
        engine := .sending
        sending := some ⟨place, f.octets lp.node, decide (f.destination = 31#5), false⟩ }
  else lp

/-- The line has been recessive for a while: 6 T make it idle, 10 T end the wait after an own frame (R154, R165). That a new cell
time counts here as soon as its answer is gone is the model's choice (log 18). -/
def LinePort.idleFor (lp : LinePort) (recessiveNs : Nat) : LinePort :=
  let lp := if lp.engine = .busy ∧ 600 * hundredth lp.cellTime ≤ recessiveNs then { lp with engine := .idle } else lp
  if lp.engine = .idle ∧ 1000 * hundredth lp.cellTime ≤ recessiveNs then { lp with ownWait := false } else lp

end Sys2Proof.Machine
end

