-- ==== Sys2Proof/Machine/Halt.lean ====
section
/-! DEFINITION. Causes and the HOLD drive: what Run Control does when a cause is raised (R99, R106, R107). -/

namespace Sys2Proof.Machine

/-- The part pulls HOLD low; its seen level is asserted while it does (R106, R107; log 16). -/
def RunControl.driveHold (rc : RunControl) : RunControl := { rc with holdDriven := true, holdSeen := true }

/-- The part lets HOLD go; the seen level follows the line (R106, R107). -/
def RunControl.releaseHold (rc : RunControl) : RunControl := { rc with holdDriven := false }

/-- A cause joins the cause set, once (R99). -/
def RunControl.addCause (rc : RunControl) (c : Cause) : RunControl := { rc with causes := rc.causes ||| c.bit }

/-- Run Control enters HALTING for a cause: HOLD, the stop-silence timer, STATE (R99). -/
def enterHalting (c : Cause) (s : State) : State :=
  let rc := (s.rc.addCause c).driveHold
  announceState (.cause c)
    (s.setRc { rc with state := .halting, silence := some s.st.working.stopSilence })

/-- A cause is raised: in PRIMING or RUN it halts the run, in HALTING or HALTED it joins the set (R99). -/
def raiseCause (c : Cause) (s : State) : State :=
  match s.rc.state with
  | .priming | .run => enterHalting c s
  | .halting | .halted => s.setRc (s.rc.addCause c)
  | .standby => s

/-- Run Control enters a run state and hands over a STATE (R120). -/
def enterRunState (state : RunState) (reason : StateReason) (s : State) : State :=
  announceState reason (s.setRc { s.rc with state := state })

end Sys2Proof.Machine
end

