-- ==== Sys2Proof/Machine/Library.lean ====
section
/-! DEFINITION. The Library Controller: validation (R12 to R14), its operations and their steps (R22 to R29, R172), the read
port and suspension (R32 to R34), and its requests. -/

namespace Sys2Proof.Machine

/-! ### Validation (R12 to R14) -/

/-- What one read of a validation comes to. -/
inductive WalkResult where
  | more (walk : Walk)
  | valid (info : SlotInfo)
  | bad (index : Nat) (reason : Reason)
  deriving DecidableEq, Repr

/-- The header's two checks (R12); the index 65,535 names the header. -/
def walkHeader (segments stitch : Nat) : WalkResult :=
  if segments < 1 ∨ Config.segmentCount < segments then .bad 65535 .count
  else if stitch < 10 ∨ 100 < stitch then .bad 65535 .badLength
  else .more ⟨segments, stitch, 0, 0, 0, 0, 0, 0, false⟩

/-- The length override a segment may have (R12, step 3). -/
def overrideOk (op : SegmentOp) (n : Nat) : Bool :=
  match op with
  | .run => n == 0 || (decide (10 ≤ n) && decide (n ≤ 100))
  | _ => n == 0

/-- The operands a TACK may have (R12, step 4). -/
def tackOk (g : Segment) : Bool :=
  (g.a == 2 || g.a == 4 || g.a == 6) && decide (1 ≤ g.b) && decide (g.b ≤ 20)

/-- The position after a RUN or JUMP (R12, step 6; R14). -/
def Walk.move (w : Walk) (g : Segment) : Walk :=
  { w with
    x := w.x + g.a
    y := w.y + g.b
    yReach := max w.yReach (w.y + g.b)
    xMin := min w.xMin (w.x + g.a)
    xMax := max w.xMax (w.x + g.a)
    reverse := w.reverse || decide (g.b < 0) }

/-- The summary of a walk (R14). -/
def Walk.info (w : Walk) : SlotInfo :=
  ⟨w.segments, w.stitch, w.y.toNat, w.yReach.toNat, w.xMin, w.xMax.toNat, w.reverse⟩

/-- The segment passed R12; the next one follows, or the final checks of R13. -/
def Walk.pass (w : Walk) (op : SegmentOp) : WalkResult :=
  if w.index + 1 < w.segments then .more { w with index := w.index + 1 }
  else if op ≠ .endOfBody then .bad w.index .noEnd
  else if w.x ≠ 0 then .bad w.index .netDx
  else if w.y ≤ 0 then .bad w.index .nonPositiveR
  else .valid w.info

/-- The checks of R12 on one segment, in their order. -/
def walkSegment (w : Walk) (g : Segment) : WalkResult :=
  match g.op with
  | none => .bad w.index .badOp
  | some op =>
    if g.flags ≠ 0 then .bad w.index .badOp
    else if op = .endOfBody ∧ (g.a ≠ 0 ∨ g.b ≠ 0) then .bad w.index .badOp
    else if overrideOk op g.override = false then .bad w.index .badLength
    else if op = .tack ∧ tackOk g = false then .bad w.index .badLength
    else if op = .endOfBody ∧ w.index + 1 ≠ w.segments then .bad w.index .noEnd
    else
      match op with
      | .run | .jump => if w.y + g.b < 0 then .bad w.index .belowOrigin else (w.move g).pass op
      | .tack | .groups | .endOfBody => w.pass op

/-! ### The operation in hand -/

/-- The controller state (R18). -/
def Library.state (l : Library) : ControllerState :=
  match l.op with
  | none => .idle
  | some o =>
    if o.suspended then .suspended
    else match o.work with
      | .commit _ _ _ => .committing
      | .erase _ => .erasing
      | .close _ _ => .closing
      | .setup _ _ => .setupWrite

def OpWork.name : OpWork → OpName
  | .commit _ _ _ => .commitPage
  | .erase _ => .eraseSlot
  | .close _ _ => .closeSlot
  | .setup _ _ => .writeSetup

def OpWork.slot : OpWork → Option Nat
  | .commit slot _ _ => some slot
  | .erase slot => some slot
  | .close slot _ => some slot
  | .setup _ _ => none

def OpWork.page : OpWork → Option Nat
  | .commit _ page _ => some page
  | _ => none

def stepErases : ArrayStep → Bool
  | .slotErase | .setupErase => true
  | _ => false

def stepMarks : ArrayStep → Bool
  | .openedMark | .closedMark | .voidMarkFirst | .voidMarkAfterFailure => true
  | _ => false

/-- The bytes a program step programs, with the values intended (R24, R25, R28, R172). -/
def OpWork.cells (w : OpWork) (step : ArrayStep) : List Host.Cell :=
  match w.slot, step with
  | some slot, .openedMark => [(markAddress slot, markOpened)]
  | some slot, .closedMark => [(markAddress slot, markClosed)]
  | some slot, .voidMarkFirst => [(markAddress slot, markVoid)]
  | some slot, .voidMarkAfterFailure => [(markAddress slot, markVoid)]
  | _, _ =>
    match w, step with
    | .commit slot page cells, .pageData => cells.map fun c => (pageBase slot page + c.1, c.2)
    | .close slot (some info), .summaryFields => summaryCells slot info
    | .setup _ _, .signatureZero => [(setupBase, 0x00), (setupBase + 1, 0x00)]
    | .setup copy _, .setupFields => placeBytes (setupBase + 2) (setupFieldBytes copy)
    | .setup _ _, .signatureWrite => [(setupBase, 0xC3), (setupBase + 1, 0x5A)]
    | _, _ => []

/-- The unit an erase step erases. -/
def OpWork.unit (w : OpWork) : Nat × Nat :=
  match w.slot with
  | some slot => (slotBase slot, Config.slotBytes)
  | none => (setupBase, Config.pageBytes)

/-- The array after a program step: each byte ANDed with its value, or with what is listed for it where it failed (R2;
log 9). A value of 0xFF over a blank byte programs nothing, so nothing of it fails (R24). -/
def programCells (mem : List Host.Cell) (failed : List Host.Cell) : List Host.Cell → List Host.Cell
  | [] => mem
  | c :: rest =>
    if c.2 = blankByte ∧ arrayByte mem c.1 = blankByte then programCells mem failed rest
    else programCells (arrayProgram mem c.1 ((cellAt failed c.1).getD c.2)) failed rest

/-- The read-back: every byte holds the value intended (R2). -/
def readBack (mem : List Host.Cell) (cells : List Host.Cell) : Bool := cells.all fun c => arrayByte mem c.1 == c.2

/-- The array after a program step cut short: a mark is written or not; of another byte, any of the bits to be cleared may
still stand (R10, R37; log 8). -/
def interruptCells (mem : List Host.Cell) (marks : Bool) (left : List Host.Cell) : List Host.Cell → List Host.Cell
  | [] => mem
  | c :: rest =>
    let mem := match cellAt left c.1 with
      | none => mem
      | some x => arrayProgram mem c.1 (if marks then c.2 else c.2 ||| x)
    interruptCells mem marks left rest

/-- The same for page data, which are programmed in increasing offset order (R24): the last byte listed is the one in hand, of
which any of the bits to be cleared may still stand; those before it are programmed whole, and those behind it are as they were
(log 8). -/
def interruptInOrder (mem : List Host.Cell) (left : List Host.Cell) : List Host.Cell → List Host.Cell
  | [] => mem
  | c :: rest =>
    if rest.any fun d => (cellAt left d.1).isSome then interruptInOrder (arrayProgram mem c.1 c.2) left rest
    else
      match cellAt left c.1 with
      | none => mem
      | some x => arrayProgram mem c.1 (c.2 ||| x)

/-- The array after an erase cut short: the listed bytes of the unit are blank, the others as they were (R37; log 8). -/
def interruptErase (mem : List Host.Cell) (base size : Nat) (left : List Host.Cell) : List Host.Cell :=
  mem.filter fun c => !(decide (base ≤ c.1) && decide (c.1 < base + size) && (cellAt left c.1).isSome)

/-- The array as a step that does not come to its end leaves it (R37, R29). -/
def Library.interrupted (l : Library) (left : List Host.Cell) : List Host.Cell :=
  match l.op with
  | some ⟨work, .stepping step, _, _⟩ =>
    if stepErases step then interruptErase l.array work.unit.1 work.unit.2 left
    else if step = .pageData then interruptInOrder l.array left (work.cells step)
    else interruptCells l.array (stepMarks step) left (work.cells step)
  | _ => l.array

/-- The array as RESETN or the loss of supply leaves it (R37, R10). The VOID mark that opens an ERASE SLOT has been written then:
the scan finds the mark VOID or a partly erased slot (R17, R37). -/
def Library.cutShort (l : Library) (left : List Host.Cell) : List Host.Cell :=
  match l.op with
  | some ⟨work, .stepping .voidMarkFirst, _, _⟩ => programCells l.array [] (work.cells .voidMarkFirst)
  | _ => l.interrupted left

/-- The setup page's signature stands (R171). -/
def signatureStands (mem : List Host.Cell) : Bool := arrayByte mem setupBase == 0xC3 && arrayByte mem (setupBase + 1) == 0x5A

/-- The array as the expiry of a bound leaves it (R29). A signature of the setup page that was being programmed is not left whole
then, for the page is not usable (R172): of an operand by which it would be, the second byte counts as not reached (log 8). -/
def Library.expired (l : Library) (left : List Host.Cell) : List Host.Cell :=
  match l.op with
  | some ⟨_, .stepping .signatureWrite, _, _⟩ =>
    if signatureStands (l.interrupted left) then l.interrupted (dropCell left (setupBase + 1)) else l.interrupted left
  | _ => l.interrupted left

/-- The array after an erase: the unit blank but for the listed bytes (R26; log 9). -/
def erased (mem : List Host.Cell) (base size : Nat) : List Host.Cell → List Host.Cell
  | [] => arrayErase mem base size
  | c :: rest =>
    if base ≤ c.1 ∧ c.1 < base + size then arraySet (erased mem base size rest) c.1 c.2 else erased mem base size rest

/-- The array after the erase of an operation. A signature of the setup page that had been zeroed does not stand again after it, for
the page is not usable (R172): of an operand by which it would, the second byte counts as blank (log 9). -/
def OpWork.eraseLeaves (w : OpWork) (mem residue : List Host.Cell) : List Host.Cell :=
  let leaves (residue : List Host.Cell) : List Host.Cell := erased mem w.unit.1 w.unit.2 residue
  match w with
  | .setup _ false => if signatureStands (leaves residue) then leaves (dropCell residue (setupBase + 1)) else leaves residue
  | _ => leaves residue

/-! ### Steps of an operation -/

def Library.setEntry (l : Library) (slot : Nat) (e : SlotEntry) : Library := { l with table := l.table.set slot e }

/-- The operation ends: the outcome record is written and the operation in hand dropped (R18, R30). -/
def Library.finish (l : Library) (work : OpWork) (result : OpResult) : Library :=
  { l with op := none, outcome := some ⟨work.name, work.slot, work.page, result⟩ }

/-- The operation ends FAILED: the slot FAILED, the fail flag set (R24, R26, R28, R31, R172). -/
def Library.fail (l : Library) (work : OpWork) : Library :=
  let l := match work.slot with
    | some slot => l.setEntry slot .failed
    | none => l
  { l.finish work .failed with failFlag := true }

/-- The operation goes on with a step. -/
def Library.proceed (l : Library) (o : Op) (step : ArrayStep) : Library :=
  { l with op := some { o with point := .stepping step } }

/-- One bounded step has ended and another begins: no progress interval runs, and an expander read that waited in one is
served at the step's end, uncounted (R33, R34; log 12). -/
def Library.nextStep (l : Library) (o : Op) (step : ArrayStep) : Library :=
  let l := l.proceed { o with interval := false } step
  match l.port.inFlight, l.port.expander with
  | none, some r => { l with port := { l.port with inFlight := some r, expander := none } }
  | _, _ => l

/-- A step that writes a mark, when the mark found asks for it (R10); else what follows the write. -/
def Library.writeMark (l : Library) (work : OpWork) (target : Byte) (write done : Library → Library) : Library :=
  match work.slot with
  | some slot => if markProgrammed (arrayByte l.array (markAddress slot)) target then write l else done l
  | none => done l

/-- After a failure the mark VOID is written, and the operation ends FAILED (R24, R28). -/
def Library.voidAndFail (l : Library) (o : Op) : Library :=
  l.writeMark o.work markVoid (fun l => l.nextStep o .voidMarkAfterFailure) fun l => l.fail o.work

/-- The summary is stored: the mark CLOSED follows (R28), and with it the table's entry. -/
def Library.closeDone (l : Library) (work : OpWork) : Library :=
  match work with
  | .close slot (some info) => (l.setEntry slot (.closed info)).finish work .done
  | _ => l.finish work .done

/-- The step in hand has been read back, or its bound has expired before its report (`expired`): what the operation does then
(R24, R25, R28, R29, R172). -/
def Library.stepEnded (l : Library) (o : Op) (step : ArrayStep) (good expired : Bool) : Library :=
  match step with
  | .openedMark =>
    if good then
      match o.work.slot with
      | some slot => (l.setEntry slot .opened).proceed o .pageData
      | none => l
    else l.voidAndFail o
  | .pageData => if good then l.finish o.work .done else l.voidAndFail o
  | .summaryFields =>
    if good then l.writeMark o.work markClosed (fun l => l.proceed o .closedMark) (fun l => l.closeDone o.work)
    else l.voidAndFail o
  | .closedMark => if good then l.closeDone o.work else l.voidAndFail o
  | .voidMarkFirst => if good then l.nextStep o .slotErase else l.fail o.work
  | .voidMarkAfterFailure => l.fail o.work
  | .slotErase =>
    if good then
      match o.work.slot with
      | some slot => (l.setEntry slot .empty).finish o.work .done
      | none => l
    else l.fail o.work
  | .signatureZero =>
    if expired then l.fail o.work
    else
      match o.work with
      | .setup copy _ => l.nextStep { o with work := .setup copy (!good) } .setupErase
      | _ => l
  | .setupErase =>
    match o.work with
    | .setup _ zeroFailed => if good && !zeroFailed then l.nextStep o .setupFields else l.fail o.work
    | _ => l
  | .setupFields => if good then l.nextStep o .signatureWrite else l.fail o.work
  | .signatureWrite => if good then l.finish o.work .done else l.fail o.work

/-! ### The read port (R32 to R34) -/

/-- The waiting read that is served next when no step runs: expander, then validation, then a line request (R32). -/
def Port.choose (p : Port) : Port :=
  match p.expander, p.closing, p.line with
  | some r, _, _ => { p with inFlight := some r, expander := none }
  | none, some r, _ => { p with inFlight := some r, closing := none }
  | none, none, some r => { p with inFlight := some r, line := none }
  | none, none, none => p

def State.setPort (s : State) (p : Port) : State := s.setPl { s.pl with port := p }

/-- The step in hand is paused for a waiting expander read, and counted (R33). -/
def suspendStep (o : Op) (s : State) : State :=
  let s := s.setRc { s.rc with counters :=
    { s.rc.counters with suspensions := saturatingSucc s.rc.counters.suspensions } }
  s.setPl { s.pl with op := some { o with suspended := true }, port := s.pl.port.choose }

/-- With no read in flight: the next read is chosen, a step is paused for an expander read, or a paused step resumes into a
progress interval (R32 to R34). -/
def portNext (s : State) : State :=
  match s.pl.port.inFlight with
  | some _ => s
  | none =>
    match s.pl.op with
    | some o =>
      match o.point with
      | .validating _ => s.setPort s.pl.port.choose
      | .stepping _ =>
        match s.pl.port.expander with
        | some _ =>
          if o.suspended then s.setPort s.pl.port.choose
          else if o.interval then s
          else suspendStep o s
        | none =>
          if o.suspended then s.setPl { s.pl with op := some { o with suspended := false, interval := true } } else s
    | none => s.setPort s.pl.port.choose

/-! ### Events of the array -/

/-- The running step, where one runs (R29: a report finds no step when none does). -/
def Library.running (l : Library) : Option (Op × ArrayStep) :=
  match l.op with
  | some ⟨w, .stepping step, i, false⟩ => some (⟨w, .stepping step, i, false⟩, step)
  | _ => none

/-- PROGRAM_STEP_COMPLETE (R24): a report of the running program step; its read-back decides. -/
def execProgramStepComplete (step : ArrayStep) (failed : List Host.Cell) (s : State) :
    Host.Outcome State Fault Refusal :=
  .next <| whenPowered s fun s =>
    match s.pl.running with
    | some (o, at') =>
      if at' = step ∧ stepErases step = false then
        let cells := o.work.cells step
        let mem := programCells s.pl.array failed cells
        portNext (s.setPl (({ s.pl with array := mem } : Library).stepEnded o step (readBack mem cells) false))
      else s
    | none => s

/-- ERASE_COMPLETE (R26): a report of the running erase; whether every byte is blank decides. -/
def execEraseComplete (residue : List Host.Cell) (s : State) : Host.Outcome State Fault Refusal :=
  .next <| whenPowered s fun s =>
    match s.pl.running with
    | some (o, step) =>
      if stepErases step then
        let mem := o.work.eraseLeaves s.pl.array residue
        portNext (s.setPl (({ s.pl with array := mem } : Library).stepEnded o step
          (spanBlank mem o.work.unit.1 o.work.unit.2) false))
      else s
    | none => s

/-- BOUND_EXPIRY (R29): the running step has failed. -/
def execBoundExpiry (left : List Host.Cell) (s : State) : Host.Outcome State Fault Refusal :=
  .next <| whenPowered s fun s =>
    match s.pl.running with
    | some (o, step) =>
      portNext (s.setPl (({ s.pl with array := s.pl.expired left } : Library).stepEnded o step false true))
    | none => s

/-- PROGRESS_INTERVAL_END (R34): a waiting expander read now pauses the step. -/
def execProgressIntervalEnd (s : State) : Host.Outcome State Fault Refusal :=
  .next <| whenPowered s fun s =>
    match s.pl.op with
    | some o => if o.interval && !o.suspended then portNext (s.setPl { s.pl with op := some { o with interval := false } }) else s
    | none => s

/-! ### Requests -/

/-- LOAD BUFFER places bytes from an offset on; the offset after 255 is 0 (R20). -/
def loadCells (buffer : List Host.Cell) (offset : Byte) : List Byte → List Host.Cell
  | [] => buffer
  | b :: rest => loadCells (setCell buffer offset.toNat b) (offset + 1) rest

/-- LOAD_BUFFER (R20). -/
def execLoadBuffer (src : NodeId) (offset : Byte) (data : List Byte) (s : State) : Host.Outcome State Fault Refusal :=
  .next <| takeRequest (.loadBuffer src offset data) (s := s) fun sv s =>
    if data.length = 0 ∨ 20 < data.length then answer sv .badParam [] s
    else
      let buffer := loadCells s.pl.pageBuffer offset data
      answer sv .ok (octetsNat16 buffer.length) (s.setPl { s.pl with pageBuffer := buffer })

/-- CLEAR_BUFFER (R21). -/
def execClearBuffer (src : NodeId) (s : State) : Host.Outcome State Fault Refusal :=
  .next <| takeRequest (.clearBuffer src) (s := s) fun sv s =>
    answer sv .ok (octetsNat16 s.pl.pageBuffer.length) (s.setPl { s.pl with pageBuffer := [] })

/-- An operation is accepted: the fail flag is cleared and its first step begins (R22, R31). -/
def acceptOp (sv : Service) (work : OpWork) (point : OpPoint) (s : State) : State :=
  portNext (answer sv .ok [] (s.setPl { s.pl with op := some ⟨work, point, false, false⟩, failFlag := false }))

/-- COMMIT PAGE passed the tests before WRITTEN; the last tests, and the acceptance (R23, R24). The program step begins with the
acceptance whatever waits at the port; an expander read that waits at the end of the WRITTEN read then suspends it at once, counted,
which is the model's choice (log 13). -/
def commitDecision (sv : Service) (slot page : Nat) (written : Bool) (s : State) : State :=
  if written then answer sv .written [] s
  else if s.pl.pageBuffer = [] then answer sv .empty [] s
  else
    let first : ArrayStep := if tableEntry s.pl.table slot = some .empty then .openedMark else .pageData
    acceptOp sv (.commit slot page s.pl.pageBuffer) (.stepping first) (s.setPl { s.pl with pageBuffer := [] })

/-- COMMIT_PAGE (R22, R23). -/
def execCommitPage (src : NodeId) (slot page : Byte) (s : State) : Host.Outcome State Fault Refusal :=
  .next <| takeRequest (.commitPage src slot page) (s := s) fun sv s =>
    if s.pl.op.isSome then answer sv .busy [] s
    else if 31 < slot.toNat ∨ 15 < page.toNat then answer sv .badParam [] s
    else if hasBit s.st.working.protect slot.toNat then answer sv .isProtected [] s
    else if slotInUse s.queue slot.toNat then answer sv .inUse [] s
    else
      match tableEntry s.pl.table slot.toNat with
      | some .empty =>
        if page = 0 ∧ (s.pl.pageBuffer.any fun c => decide (16 ≤ c.1) && decide (c.1 ≤ 31)) = true then
          answer sv .reservedArea [] s
        else commitDecision sv slot.toNat page.toNat false s
      | some .opened =>
        if page = 0 ∧ (s.pl.pageBuffer.any fun c => decide (16 ≤ c.1) && decide (c.1 ≤ 31)) = true then
          answer sv .reservedArea [] s
        else
          portNext ((s.setPort { s.pl.port with line := some (.written slot.toNat page.toNat) }).serviceWaits sv .written)
      | _ => answer sv .refusedState [] s

/-- ERASE_SLOT (R22, R25). -/
def execEraseSlot (src : NodeId) (slot : Byte) (s : State) : Host.Outcome State Fault Refusal :=
  .next <| takeRequest (.eraseSlot src slot) (s := s) fun sv s =>
    if s.pl.op.isSome then answer sv .busy [] s
    else if 31 < slot.toNat then answer sv .badParam [] s
    else if hasBit s.st.working.protect slot.toNat then answer sv .isProtected [] s
    else if slotInUse s.queue slot.toNat then answer sv .inUse [] s
    else if tableEntry s.pl.table slot.toNat = some .empty then
      acceptOp sv (.erase slot.toNat) (.stepping .slotErase) s
    else
      let first : ArrayStep :=
        if markProgrammed (arrayByte s.pl.array (markAddress slot.toNat)) markVoid then .voidMarkFirst else .slotErase
      acceptOp sv (.erase slot.toNat) (.stepping first) (s.setPl (s.pl.setEntry slot.toNat .failed))

/-- CLOSE_SLOT (R22, R27): the validation phase begins with the header's read. -/
def execCloseSlot (src : NodeId) (slot : Byte) (s : State) : Host.Outcome State Fault Refusal :=
  .next <| takeRequest (.closeSlot src slot) (s := s) fun sv s =>
    if s.pl.op.isSome then answer sv .busy [] s
    else if 31 < slot.toNat then answer sv .badParam [] s
    else if hasBit s.st.working.protect slot.toNat then answer sv .isProtected [] s
    else if tableEntry s.pl.table slot.toNat ≠ some .opened then answer sv .refusedState [] s
    else
      acceptOp sv (.close slot.toNat none) (.validating .header)
        (s.setPort { s.pl.port with closing := some .closing })

/-- READ_LIBRARY (R35): the read waits for its turn at the port. -/
def execReadLibrary (src : NodeId) (slot page offset count : Byte) (s : State) : Host.Outcome State Fault Refusal :=
  .next <| takeRequest (.readLibrary src slot page offset count) (s := s) fun sv s =>
    if s.pl.op.isSome then answer sv .busy [] s
    else if 31 < slot.toNat ∨ 15 < page.toNat ∨ count.toNat < 1 ∨ 20 < count.toNat then answer sv .badParam [] s
    else
      portNext ((s.setPort { s.pl.port with line := some (.library slot.toNat page.toNat offset.toNat count.toNat) }).serviceWaits
        sv .library)

/-- The bytes READ LIBRARY returns; the byte after the slot's last is its first (R35). -/
def libraryBytes (mem : List Host.Cell) (slot page offset : Nat) : Nat → List Byte
  | 0 => []
  | n + 1 =>
    arrayByte mem (slotBase slot + (page * Config.pageBytes + offset) % Config.slotBytes) ::
      libraryBytes mem slot page (offset + 1) n

/-- The outcome record in an answer (READ OUTCOME, chapter 11). -/
def OutcomeRecord.octets (o : OutcomeRecord) : List Byte :=
  [o.op.code, BitVec.ofNat 8 (o.target.getD 255), BitVec.ofNat 8 (o.page.getD 255)] ++
    (match o.result with
     | .done => [0]
     | .failed => [1]
     | .invalid i r => 2 :: octetsNat16 i ++ [r.code])

/-- READ_OUTCOME (R30). -/
def execReadOutcome (src : NodeId) (s : State) : Host.Outcome State Fault Refusal :=
  .next <| takeRequest (.readOutcome src) (s := s) fun sv s =>
    answer sv .ok ([s.pl.state.code, boolOctet s.pl.failFlag] ++ ((s.pl.outcome.map OutcomeRecord.octets).getD [])) s

/-! ### What a finished read brings (R23, R27, R32, R35) -/

/-- A validation read of CLOSE SLOT: the next read, the end INVALID, or the program phase (R27, R28). The program phase begins
with its step whatever waits at the port; an expander read that waits then suspends it at once, which is the model's choice
(log 13). -/
def closingRead (s : State) : State :=
  match s.pl.op with
  | some ⟨.close slot info, .validating v, interval, suspended⟩ =>
    let result := match v with
      | .header => walkHeader (headerSegments s.pl.array slot) (headerStitch s.pl.array slot)
      | .segment w => walkSegment w (readSegment s.pl.array (segmentAddress slot w.index))
    match result with
    | .more w =>
      s.setPl { s.pl with
        op := some ⟨.close slot info, .validating (.segment w), interval, suspended⟩
        port := { s.pl.port with closing := some .closing } }
    | .bad i r => s.setPl (s.pl.finish (.close slot info) (.invalid i r))
    | .valid info =>
      s.setPl { s.pl with op := some ⟨.close slot (some info), .stepping .summaryFields, false, false⟩ }
  | _ => s

/-- The WRITTEN read of COMMIT PAGE: whether any loaded offset's byte is written (R23). -/
def writtenRead (slot page : Nat) (s : State) : State :=
  match s.waitingService .written with
  | some sv =>
    commitDecision sv slot page
      (s.pl.pageBuffer.any fun c => arrayByte s.pl.array (pageBase slot page + c.1) != blankByte) s
  | none => s

/-- READ LIBRARY's read (R35). -/
def libraryRead (slot page offset count : Nat) (s : State) : State :=
  match s.waitingService .library with
  | some sv => answer sv .ok (libraryBytes s.pl.array slot page offset count) s
  | none => s

end Sys2Proof.Machine
end

