-- ==== Sys2Proof/Machine/Expand.lean ====
section
/-! DEFINITION. The Stitch Expander (R54 to R78): the arithmetic of a copy, the next record of a copy and whether it is the
last, what the expander does between records, and what follows from it at once in Run Control and at the read port. -/

namespace Sys2Proof.Machine

/-! ### Step counts (R59, R63, R64) -/

/-- The number of SEW records of a RUN segment, for the stitch length resolved for the copy (R59). -/
def runSteps (st : Settings) (stitch : Nat) (g : Segment) : Nat :=
  let length := if g.override = 0 then stitch else g.override
  let x := g.a.natAbs
  let y := g.b.natAbs
  let lap := max x y + 3 * min x y / 8
  max 1 (max (ceilDiv lap length) (max (ceilDiv x st.xMax) (ceilDiv y (if 0 ≤ g.b then st.yFwd else st.yRev))))

/-- The number of JUMP records of a jump; none for a jump of no length (R63). -/
def jumpSteps (st : Settings) (dx dy : Int) : Nat :=
  if dx = 0 ∧ dy = 0 then 0
  else max 1 (max (ceilDiv dx.natAbs st.xJmax)
    (ceilDiv dy.natAbs (if 0 ≤ dy then st.yJmax else min st.yJmax st.yRev)))

/-- T_eff: the feed step of a tack of a given length (R64). -/
def tackFeed (st : Settings) (length : Nat) : Nat := min length (min st.yFwd st.yRev)

/-! ### What fixes a copy's records -/

/-- The order of the context, the entry of its slot, and the working settings. -/
structure CopyEnv where
  order : Order
  info : SlotInfo
  st : Settings
  deriving DecidableEq, Repr

/-- P + floor(G / 2) beyond the panel's start (R71). -/
def CopyEnv.cutMark (e : CopyEnv) (c : Context) : Word32 :=
  c.panelStart + BitVec.ofNat 32 (e.order.length + e.order.gap / 2)

/-- The margin of the repeat test (R68). -/
def CopyEnv.margin (e : CopyEnv) (c : Context) : Nat :=
  if 0 < c.tackCount then tackFeed e.st c.tackLength else 0

/-- The context at the beginning of a copy (R67). -/
def Context.beginCopy (c : Context) (e : CopyEnv) (copy : Nat) : Context :=
  { c with
    tag := some e.order.tag
    copy := some copy
    phase := .leadIn
    segment := 0
    step := 0
    steps := jumpSteps e.st (e.order.start - c.intended) 0
    baseLateral := c.intended
    baseY := 0
    tack := none
    panelY := 0
    panelStart := c.web
    mask := BitVec.allOnes 32
    seam := false
    cutMark := none
    stitch := e.order.stitch.getD e.info.stitch
    tackCount := e.order.tackCount.getD e.st.defTackCount
    tackLength := e.order.tackLength.getD e.st.defTackLength }

/-- Before each repeat: it begins, or the body ends (R68, R69). -/
def Context.startRepeat (c : Context) (e : CopyEnv) : Context :=
  if e.order.mode = .truncate ∨ c.panelY + e.info.yReach + e.margin c ≤ e.order.length then
    { c with phase := .body, intended := e.order.start, mask := BitVec.allOnes 32, segment := 0, step := 0, steps := 0 }
  else { c with phase := .endTack }

/-- The start of RUN_OUT (R71). -/
def Context.startRunOut (c : Context) (e : CopyEnv) : Context :=
  { c with
    phase := .runOut
    cutMark := some (e.cutMark c)
    baseLateral := c.intended
    baseY := c.panelY
    step := 0
    steps := jumpSteps e.st (e.order.start - c.intended) (e.order.length - c.panelY + e.order.gap) }

/-- A tack group begins (R64). -/
def Context.startTack (c : Context) (e : CopyEnv) (kind : TackKind) (count length : Nat) : Context :=
  { c with tack := some ⟨kind, 1, count, tackFeed e.st length⟩ }

/-- The segment at an index begins: the step count and the bases are fixed (R59, R63). -/
def Context.startSegment (c : Context) (index steps : Nat) : Context :=
  { c with segment := index, step := 0, steps := steps, baseLateral := c.intended, baseY := c.panelY }

/-- The index of the segment the next record of the body needs. -/
def Context.position (c : Context) : Nat :=
  if c.steps = 0 ∨ c.step < c.steps then c.segment else c.segment + 1

/-- Panel y done after the next step of a RUN or JUMP segment (R60). -/
def Context.nextPanelY (c : Context) (g : Segment) : Int := c.baseY + rdiv (g.b * (c.step + 1)) c.steps

/-- The next step of the segment is a cut step (R69). -/
def CopyEnv.cuts (e : CopyEnv) (c : Context) (g : Segment) : Bool :=
  decide (e.order.mode = .truncate) && decide ((e.order.length : Int) < c.nextPanelY g)

/-- The body ends at a cut step: the segment position stays as the last record made left it, in `last` (R69). -/
def Context.cutBody (c last : Context) : Context :=
  { c with
    phase := .endTack
    segment := last.segment
    step := last.step
    steps := last.steps
    baseLateral := last.baseLateral
    baseY := last.baseY }

/-! ### The next record -/

/-- Where expansion comes to from a context: a segment is needed, a record can be made, or the copy ends. -/
inductive Advance where
  | need (segment : Nat)
  | ready (c : Context) (hand : List (Nat × Segment))
  | ended (c : Context)
  | stuck
  deriving DecidableEq, Repr

/-- What a segment not yet begun leads to. -/
inductive SegmentStart where
  | record (c : Context)
  | onward (c : Context)
  | cut
  | unread
  deriving DecidableEq, Repr

/-- A segment of the body is reached (R59, R63 to R66, R68, R69). -/
def startOfSegment (e : CopyEnv) (c : Context) (index : Nat) (g : Segment) : SegmentStart :=
  match g.op with
  | some .run =>
    let begun := c.startSegment index (runSteps e.st c.stitch g)
    if e.cuts begun g then .cut
    else if c.seam = false ∧ 0 < c.tackCount then .record (begun.startTack e .start c.tackCount c.tackLength)
    else .record begun
  | some .jump =>
    let steps := jumpSteps e.st g.a g.b
    if c.seam = true ∧ 0 < c.tackCount then
      .record ((c.startSegment index steps).startTack e .ending c.tackCount c.tackLength)
    else
      let open' : Context := { c with seam := false }
      if steps = 0 then .onward { open' with segment := index + 1, step := 0, steps := 0 }
      else
        let begun := open'.startSegment index steps
        if e.cuts begun g then .cut else .record begun
  | some .tack => .record ((c.startSegment index g.a.toNat).startTack e .explicit g.a.toNat g.b.toNat)
  | some .groups => .onward { c with mask := segmentMask g, segment := index + 1, step := 0, steps := 0 }
  | some .endOfBody => .onward (c.startRepeat e)
  | none => .unread

/-- Expansion from a context, with the segments in hand, to the next record; `last` is the context the last record left. The
first argument bounds the moves; each takes a segment from the hand or enters a later phase. -/
def advance (e : CopyEnv) (last : Context) : Nat → Context → List (Nat × Segment) → Advance
  | 0, _, _ => .stuck
  | n + 1, c, hand =>
    if c.tack.isSome then .ready c hand
    else
      match c.phase with
      | .done => .ended c
      | .leadIn => if c.step < c.steps then .ready c hand else advance e last n (c.startRepeat e) hand
      | .endTack =>
        if c.seam = true ∧ 0 < c.tackCount then .ready (c.startTack e .ending c.tackCount c.tackLength) []
        else advance e last n (c.startRunOut e) []
      | .runOut => if c.step < c.steps then .ready c [] else advance e last n { c with phase := .done } []
      | .body =>
        match hand with
        | [] => .need c.position
        | (i, g) :: rest =>
          if i ≠ c.position then .stuck
          else if c.step < c.steps then
            if e.cuts c g then advance e last n (c.cutBody last) [] else .ready c hand
          else
            match startOfSegment e c i g with
            | .record c' => .ready c' hand
            | .onward c' => advance e last n c' rest
            | .cut => advance e last n (({ c with seam := c.seam && decide (g.op ≠ some .jump) } : Context).cutBody last) []
            | .unread => .stuck

/-- Enough moves for any hand. -/
def advanceFrom (e : CopyEnv) (c : Context) (hand : List (Nat × Segment)) : Advance :=
  advance e c (2 * hand.length + 12) c hand

/-- A record that can be made, with the context and the hand it leaves. -/
structure Making where
  kind : Kind
  dx : Int
  dy : Int
  lateral : Int
  planned : Word32
  clipped : Bool
  context : Context
  hand : List (Nat × Segment)
  deriving DecidableEq, Repr

/-- The record that takes the context to a new one with a given feed step, laterals clamped (R56, R61). -/
def CopyEnv.record (e : CopyEnv) (c c' : Context) (kind : Kind) (dy : Int) (hand : List (Nat × Segment)) : Making :=
  let lateral := clampInt c'.intended 0 e.st.travel
  { kind := kind
    dx := lateral - clampInt c.intended 0 e.st.travel
    dy := dy
    lateral := lateral
    planned := if kind = .jump then 0 else e.order.groups &&& c.mask
    clipped := decide (c'.intended ≠ lateral)
    context := { c' with web := moveWeb c.web dy }
    hand := hand }

/-- One TACK record of the group in the context (R64). -/
def makeTack (e : CopyEnv) (c : Context) (t : TackPhase) (hand : List (Nat × Segment)) : Making :=
  let ends := t.count ≤ t.index
  let c' : Context :=
    { c with
      tack := if ends then none else some { t with index := t.index + 1 }
      seam := c.seam && !(decide (t.kind = .ending) && decide ends)
      step := if t.kind = .explicit then c.step + 1 else c.step }
  let done := t.kind = .explicit ∧ ends ∧ (hand.head?.map Prod.fst) = some c.segment
  e.record c c' .tack (if t.index % 2 = 1 then t.length else -t.length) (if done then hand.tail else hand)

/-- One step of a RUN or JUMP segment, of the lead-in or of the run-out (R60, R63). -/
def makeStep (e : CopyEnv) (c : Context) (kind : Kind) (dx dy : Int) (hand : List (Nat × Segment)) : Making :=
  let k := c.step + 1
  let y := rdiv (dy * k) c.steps
  let c' : Context :=
    { c with
      step := k
      intended := c.baseLateral + rdiv (dx * k) c.steps
      panelY := c.baseY + y
      seam := c.seam || decide (kind = .sew)
      phase := if c.phase = .runOut ∧ c.steps ≤ k then .done else c.phase }
  e.record c c' kind (y - rdiv (dy * c.step) c.steps) (if c.steps ≤ k then hand.tail else hand)

/-- The record a ready context makes. -/
def makeRecord (e : CopyEnv) (c : Context) (hand : List (Nat × Segment)) : Making :=
  match c.tack with
  | some t => makeTack e c t hand
  | none =>
    match c.phase, hand with
    | .leadIn, _ =>
      { makeStep e { c with baseY := c.panelY } .jump (e.order.start - c.baseLateral) 0 [] with hand := hand }
    | .body, (_, g) :: _ => makeStep e c (if g.op = some .run then .sew else .jump) g.a g.b hand
    | _, _ => makeStep e c .jump (e.order.start - c.baseLateral) (e.order.length - c.baseY + e.order.gap) []

/-- Whether a record is the copy's last. -/
inductive Lastness where
  | last
  | notLast
  | need (segment : Nat)
  deriving DecidableEq, Repr

/-- A record of the copy follows whatever the segments hold: the run-out has a length, or a tack group goes on. -/
def CopyEnv.moreToCome (e : CopyEnv) (c : Context) : Bool :=
  c.tack.isSome || decide (0 < e.order.gap) || decide (c.panelY ≠ e.order.length) || decide (c.intended ≠ e.order.start)

/-- The expander knows which record is last before it appends it, reading ahead where it must (R72; log 14). -/
def CopyEnv.lastness (e : CopyEnv) (m : Making) : Lastness :=
  if m.context.phase = .done then .last
  else if m.context.phase = .runOut ∨ e.moreToCome m.context = true then .notLast
  else
    match advanceFrom e m.context m.hand with
    | .need i => .need i
    | .ended _ => .last
    | .ready _ _ => .notLast
    | .stuck => .notLast

/-- What the expander does next from its context. -/
inductive Plan where
  | need (segment : Nat)
  | make (m : Making) (first last closing : Bool)
  | ended (c : Context)
  | stuck
  deriving DecidableEq, Repr

/-- The next record of the copy, with its marks (R72) and whether it is the closing record (R73). -/
def CopyEnv.plan (e : CopyEnv) (c : Context) (hand : List (Nat × Segment)) : Plan :=
  match advanceFrom e c hand with
  | .need i => .need i
  | .ended c' => .ended c'
  | .stuck => .stuck
  | .ready c' hand' =>
    let m := makeRecord e c' hand'
    let first := decide (c.phase = .leadIn) && decide (c.step = 0)
    let opensRunOut := decide (c'.phase = .runOut) && decide (c'.step = 0)
    match e.lastness m with
    | .need i => .need i
    | .last => .make m first true (opensRunOut || decide (c'.phase ≠ .runOut))
    | .notLast => .make m first false opensRunOut

/-- The order of a tag with the entry of its slot, as the expander reads them (R16, R57). -/
def State.copyEnv (s : State) (o : Order) : Option CopyEnv :=
  (closedInfo s.pl.table o.slot).map fun info => ⟨o, info, s.st.working⟩

/-- What the expander does next. -/
def State.plan (s : State) : Plan :=
  if s.sx.context.phase = .done then .ended s.sx.context
  else
    match s.sx.context.tag with
    | none => .stuck
    | some tag =>
      match (findOrder s.queue tag).bind s.copyEnv with
      | none => .stuck
      | some e => e.plan s.sx.context s.sx.hand

/-! ### Between records -/

/-- A read is no longer live once its context has been replaced (R57). -/
def ReadFor.drop : ReadFor → ReadFor
  | .expander slot i _ => .expander slot i false
  | r => r

/-- The segments in hand are dropped, and the content of any read waiting or in flight will be (R57). -/
def dropReads (s : State) : State :=
  (s.setSx { s.sx with hand := [] }).setPort
    { s.pl.port with inFlight := s.pl.port.inFlight.map ReadFor.drop, expander := s.pl.port.expander.map ReadFor.drop }

/-- The expander takes an order up at a copy number (R67). -/
def takeUp (o : Order) (copy : Nat) (s : State) : State :=
  match s.copyEnv o with
  | none => s
  | some e => s.setSx { s.sx with context := s.sx.context.beginCopy e copy, state := .expanding, hand := [] }

/-- The expander holds for a reason. -/
def hold (why : HoldReason) (s : State) : State := s.setSx { s.sx with state := .holding why }

/-- The first order behind the context's; the head order when that one has left the queue (R74). -/
def State.followingOrder (s : State) : Option Order :=
  match s.sx.context.tag with
  | none => s.queue.head?
  | some tag =>
    match findOrder s.queue tag with
    | some _ => orderAfter s.queue tag
    | none => s.queue.head?

/-- The next copy of the context's order, where it has one (R74). -/
def State.nextCopy (s : State) : Option (Order × Nat) :=
  match s.sx.context.tag, s.sx.context.copy with
  | some tag, some copy =>
    match findOrder s.queue tag with
    | some o => if copy < min o.copies o.copyLimit then some (o, copy + 1) else none
    | none => none
  | _, _ => none

/-- What follows the phase DONE (R74). -/
def decideNext (s : State) : State :=
  if s.rc.endRequested then hold .endRequested s
  else
    match s.nextCopy with
    | some (o, copy) => takeUp o copy s
    | none =>
      match s.followingOrder with
      | some o => takeUp o o.currentCopy s
      | none => hold .queueEmpty s

/-- The expander asks for a segment, unless a read of its own waits or a live one is in flight (R57; log 15). -/
def askSegment (i : Nat) (s : State) : State :=
  let live := match s.pl.port.inFlight with
    | some (.expander _ _ true) => true
    | _ => false
  match s.sx.context.tag.bind (findOrder s.queue) with
  | none => s
  | some o =>
    if live || s.pl.port.expander.isSome then s
    else s.setPort { s.pl.port with expander := some (.expander o.slot i true) }

/-- Entries and reservations leave no place in the cut list (R73). -/
def Web.cutsFull (w : Web) : Bool := decide (Config.cutSize ≤ w.cuts.length + w.reservations.length)

/-- The window has no place for a record of the expander (R56, R95). -/
def Window.full (w : Window) : Bool := decide (Config.windowSize ≤ w.ring.length) || !w.waiting.isEmpty

/-- The state of the expander before a record that is ready (R55). -/
def readyState (closing : Bool) (s : State) : ExpanderState :=
  if closing && s.wt.cutsFull then .holding .cutReserveFull
  else if s.sw.full then .holding .windowFull
  else .expanding

/-- The expander's state follows its context, the window, the cut list and the queue (R55 to R57, R73, R74). The first
argument bounds the copies taken up; each makes a record. -/
def sxSettle : Nat → State → State
  | 0, s => s
  | n + 1, s =>
    match s.sx.state with
    | .idle | .holding .queueEmpty | .holding .endRequested => s
    | .expanding | .holding .windowFull | .holding .cutReserveFull =>
      match s.plan with
      | .need i => askSegment i (s.setSx { s.sx with state := .expanding })
      | .make _ _ _ closing => s.setSx { s.sx with state := readyState closing s }
      | .ended c => sxSettle n (decideNext (s.setSx { s.sx with context := c, hand := [], state := .expanding }))
      | .stuck => s

/-- The test by which PRIMING passes to RUN (R109). -/
def State.primed (s : State) : Bool :=
  decide (s.rc.state = .priming) &&
    (decide (s.st.working.primeDepth ≤ s.sw.ring.length) ||
      (!s.sw.ring.isEmpty && (match s.sx.state with
        | .holding .windowFull => false
        | .holding _ => true
        | _ => false)))

/-- The run is complete (R110). -/
def State.runDone (s : State) : Bool :=
  (decide (s.rc.state = .priming) || decide (s.rc.state = .run)) && s.sw.ring.isEmpty &&
    (decide (s.sx.state = .holding .queueEmpty) || decide (s.sx.state = .holding .endRequested))

/-- PRIMING passes to RUN when the window is primed; the run is completed when it is done (R109, R110, R78). -/
def rcTests (s : State) : State :=
  let s := if s.primed then enterRunState .run .primed s else s
  if s.runDone then enterRunState .standby .runComplete (s.setSx { s.sx with state := .idle }) else s

/-- What comes about at once after an event has changed the window, the queue, the cut list or the context: the expander's
state, the tests of Run Control, the read port. -/
def settle (s : State) : State := portNext (rcTests (sxSettle 4 s))

/-! ### Taking the expander up and back -/

/-- The context START sets afresh, before the first copy begins (R76). -/
def Context.fresh (c : Context) (lateral : Int) (web : Word32) : Context :=
  { c with
    tag := none, copy := none, phase := .done, intended := lateral, web := web, tack := none, cutMark := none }

/-- START takes up the head order, and the checkpoint is the start of that copy (R76). -/
def startExpander (s : State) : State :=
  let s := dropReads s
  let s := s.setSx { s.sx with context := s.sx.context.fresh s.wt.lateral s.wt.web }
  match s.queue with
  | [] => s
  | o :: _ =>
    let s := takeUp o o.currentCopy s
    s.setSx { s.sx with checkpoint := some s.sx.context }

/-- The expander is rolled back to the retired checkpoint (R78, R132). -/
def rollback (s : State) : State :=
  let s := dropReads s
  match s.sx.checkpoint with
  | some c => s.setSx { s.sx with context := c, state := .expanding }
  | none => s

/-- ABORT reaches the expander (R78). -/
def abortExpander (s : State) : State :=
  let s := dropReads s
  s.setSx { s.sx with
    context := { s.sx.context with tag := none, copy := none }
    checkpoint := none
    state := .idle }

/-! ### The event -/

/-- The record a making gives, before it joins (R56, R81). -/
def Making.toRecord (m : Making) (tag : Word16) (copy : Nat) (first last : Bool) : Record where
  serial := 0
  kind := m.kind
  dx := m.dx
  dy := m.dy
  lateral := m.lateral
  web := m.context.web
  planned := m.planned
  effective := none
  tag := tag
  copy := copy
  flags := ⟨first, last, m.clipped, false, false⟩
  takenHead := false
  takenFeed := false
  movedHead := false
  movedFeed := false
  context := some m.context

/-- The reservation handed over with a LAST record (R73, R142). -/
def State.reserve (s : State) (tag : Word16) (copy : Nat) (serial : Word32) : Web :=
  match findOrder s.queue tag with
  | none => s.wt
  | some o =>
    { s.wt with reservations := s.wt.reservations ++
        [⟨tag, copy, s.sx.context.panelStart + BitVec.ofNat 32 (o.length + o.gap / 2), serial⟩] }

/-- The next record joins the window and advances the context (R56). -/
def appendRecord (m : Making) (tag : Word16) (copy : Nat) (first last : Bool) (s : State) : State :=
  let serial := s.sw.counter
  let wt := if last then s.reserve tag copy serial else s.wt
  ((s.setSw (s.sw.join (m.toRecord tag copy first last))).setWt wt).setSx
    { s.sx with context := m.context, hand := m.hand }

/-- EXPANSION_EVENT (R56): one record is made where the next one is ready and there is room for it. -/
def execExpansionEvent (s : State) : Host.Outcome State Fault Refusal :=
  .next <| whenReady s fun s =>
    match s.sx.state, s.plan, s.sx.context.tag, s.sx.context.copy with
    | .expanding, .make m first last closing, some tag, some copy =>
      if readyState closing s = .expanding then settle (appendRecord m tag copy first last s) else s
    | _, _, _, _ => s

end Sys2Proof.Machine
end

