-- ==== Sys2Proof/Machine/Window.lean ====
section
/-! DEFINITION. The Stitch Window (R79 to R97): the drives' takes, REPORT MOVED, retirement with all it hands to the other
blocks (R91, R93, R140, R127, R129, R46, R143), and discard. -/

namespace Sys2Proof.Machine

/-! ### Takes (R82 to R87) -/

/-- The two drives. -/
inductive Drive where
  | head | feed
  deriving DecidableEq, Repr

/-- The drive's next serial to take (R82). -/
def Window.cursor (w : Window) : Drive → Word32
  | .head => w.headNext
  | .feed => w.feedNext

/-- The number of window records the drive has taken (R82). -/
def Window.lead (w : Window) (d : Drive) : Nat := serialDistance w.oldest (w.cursor d)

def Record.takenBy (r : Record) : Drive → Bool
  | .head => r.takenHead
  | .feed => r.takenFeed

/-- The cases of R83. -/
inductive TakeCase where
  | gone
  | again (r : Record)
  | lead
  | notMade
  | served (r : Record)
  | outOfSequence
  deriving DecidableEq, Repr

def Window.takeCase (w : Window) (d : Drive) (serial : Word32) : TakeCase :=
  if liesBefore serial w.oldest then .gone
  else if liesBefore serial (w.cursor d) then
    match w.find serial with
    | some r => .again r
    | none => .gone
  else if serial = w.cursor d then
    if w.leadLimit ≤ w.lead d then .lead
    else
      match w.find serial with
      | some r => .served r
      | none => .notMade
  else .outOfSequence

/-- The effective set and SKIPPED of a record at a served take of the head drive (R85). -/
def Record.fixSet (r : Record) (parked : Word32) (zones : List Zone) : Record :=
  if skips zones r.kind r.web then { r with effective := some 0, flags := { r.flags with skipped := true } }
  else { r with effective := some (r.planned &&& ~~~parked) }

/-- A take of the drive is served (R83, R85, R87). -/
def Record.serve (r : Record) (parked : Word32) (zones : List Zone) : Drive → Record
  | .head => { r.fixSet parked zones with takenHead := true }
  | .feed => { r with takenFeed := true }

/-- The drive's cursor moves to the next serial. -/
def Window.advanceCursor (w : Window) : Drive → Window
  | .head => { w with headNext := nextSerial w.headNext }
  | .feed => { w with feedNext := nextSerial w.feedNext }

/-- The fields a take returns (R86, R87, chapter 11). -/
def Record.takeOctets (r : Record) : Drive → List Byte
  | .head => octets32 r.serial ++ [r.kind.code] ++ octetsInt16 r.dx ++ octetsInt16 r.lateral ++
      octets32 (r.effective.getD 0) ++ [r.flags.octet] ++ octets16 r.tag
  | .feed => octets32 r.serial ++ [r.kind.code] ++ octetsInt16 r.dy ++ octets32 r.web ++
      [({ r.flags with skipped := false } : RecordFlags).octet] ++ octets16 r.tag

/-- A take by the cases of R83. -/
def take (d : Drive) (serial : Word32) (sv : Service) (s : State) : State :=
  if s.rc.state = .standby then answer sv .refusedState [] s
  else if serial = 0 then answer sv .badParam [] s
  else
    match s.sw.takeCase d serial with
    | .gone => answer sv .gone (octets32 s.sw.oldest) s
    | .again r => answer sv .okRepeat (r.takeOctets d) s
    | .lead => answer sv .notReady (1 :: octets32 s.sw.oldest) s
    | .notMade => answer sv .notReady (2 :: octets32 s.sw.oldest) s
    | .outOfSequence => answer sv .outOfSequence (octets32 (s.sw.cursor d)) s
    | .served r =>
      let r' := r.serve s.gh.parked s.wt.zones d
      answer sv .ok (r'.takeOctets d) (s.setSw ((s.sw.update serial fun _ => r').advanceCursor d))

/-- TAKE_HEAD (R83 to R86). -/
def execTakeHead (src : NodeId) (serial : Word32) (s : State) : Host.Outcome State Fault Refusal :=
  .next <| takeRequest (.takeHead src serial) (s := s) (take .head serial)

/-- TAKE_FEED (R87). -/
def execTakeFeed (src : NodeId) (serial : Word32) (s : State) : Host.Outcome State Fault Refusal :=
  .next <| takeRequest (.takeFeed src serial) (s := s) (take .feed serial)

/-! ### What other blocks read from the ring (R92) -/

/-- The record the head drive took last, where it still stands in the window. -/
def Window.newestTaken (w : Window) : Option Record := w.find (prevSerial w.headNext)

/-- The newest head-taken web position. -/
def State.newestTakenWeb (s : State) : Word32 := (s.sw.newestTaken.map Record.web).getD s.wt.web

/-- The highest copy of an order among the window's records. -/
def Window.highestCopy (w : Window) (tag : Word16) : Option Nat :=
  (w.ring.filter fun r => r.tag == tag).foldl (fun m r => some (max (m.getD 0) r.copy)) none

/-! ### Retirement (R91, R93) -/

/-- The Web Tracker's part of a retirement (R140, R151). -/
def Web.retire (w : Web) (r : Record) : Web :=
  let web := moveWeb w.web r.dy
  { w with
    web := web
    lateral := r.lateral
    newest := some (r.tag, r.copy)
    zones := if 0 < r.dy then w.zones.filter fun z => !liesAfter web z.last else w.zones }

/-- The history entry of a record (R127). -/
def Record.entry (r : Record) : HistoryEntry :=
  ⟨r.serial, r.kind, r.dx, r.dy, r.lateral, r.web, r.effective.getD 0, r.tag, r.copy, r.flags⟩

/-- The number of rewindable entries after a filing (R129). -/
def rewindableAfter (h : Nat) (f : RecordFlags) : Nat :=
  if f.last then 0 else if f.first then 1 else min Config.historySize (h + 1)

/-- A record is filed and the barrier placed (R127, R129). -/
def Groups.file (g : Groups) (r : Record) : Groups :=
  let longer := g.history ++ [r.entry]
  { g with
    history := longer.drop (longer.length - Config.historySize)
    rewindable := rewindableAfter g.rewindable r.flags }

/-- The counters of a retirement (R91, step 5). -/
def RunCounters.retire (c : RunCounters) (f : RecordFlags) : RunCounters :=
  { c with
    stitches := saturatingSucc c.stitches
    clipped := if f.clipped then saturatingSucc c.clipped else c.clipped
    skipped := if f.skipped then saturatingSucc c.skipped else c.skipped }

/-- The accumulators of the order (R41). -/
def Order.accumulate (o : Order) (f : RecordFlags) : Order :=
  { o with
    clipped := if f.clipped then saturatingSucc o.clipped else o.clipped
    skipped := if f.skipped then saturatingSucc o.skipped else o.skipped }

/-- The current copy of the order has ended and the next one becomes current: accumulators at zero, the flag clear (R46,
R48). -/
def Order.endCopy (o : Order) : Order :=
  { o with
    copiesEnded := o.copiesEnded + 1
    clipped := 0
    skipped := 0
    rewinds := 0
    spliceLate := false }

/-- The pending list is applied to the current copy (R41). -/
def Order.applyPending (o : Order) : Order :=
  { o with
    spliceLate := o.spliceLate || o.pendingLate.contains o.currentCopy
    pendingLate := o.pendingLate.filter fun c => c != o.currentCopy }

/-- A copy of the order has ended: the order leaves the queue, or goes on as `next` gives (R46 to R48). -/
def endCopy (next : Order → Order) (queue : List Order) (o : Order) : List Order :=
  if o.endCopy.copiesLeft = 0 then removeOrder queue o.tag else updateOrder queue o.tag next

/-- The cut reservation becomes a cut list entry with the copy's accumulators (R143). -/
def Web.makeEntry (w : Web) (res : Reservation) (o : Order) : Web × CutEntry :=
  let entry : CutEntry := ⟨res.tag, res.copy, res.cutMark, o.clipped, o.skipped, o.rewinds, o.spliceLate⟩
  ({ w with
      reservations := w.reservations.filter fun x => x.serial != res.serial
      cuts := w.cuts ++ [entry] }, entry)

/-- A record carrying LAST has retired: the copy completes (R46, R143, R115). -/
def completeCopy (r : Record) (s : State) : State :=
  match findOrder s.queue r.tag, s.wt.reservations.find? fun x => x.serial == r.serial with
  | some o, some res =>
    let (wt, entry) := s.wt.makeEntry res o
    let counters := { s.rc.counters with completed := saturatingSucc s.rc.counters.completed }
    announcePanelDone r.tag r.copy o.endCopy.copiesLeft (some entry)
      (((s.setWt wt).setRc { s.rc with counters := counters, openCopy := none }).setQueue
        (endCopy (fun x => x.endCopy.applyPending) s.queue o))
  | _, _ => s

/-- The record leaves the window (R91, R93, step 1). -/
def Window.remove (w : Window) (serial : Word32) : Window :=
  { w with ring := w.ring.eraseP fun r => r.serial == serial }

/-- Places have become free: waiting REPLAY records join, and what follows at once comes about (R91, R93, R95). -/
def placesFreed (s : State) : State := settle (s.setSw (s.sw.joinWaiting Config.windowSize))

/-- A SEW, TACK or JUMP record retires (R91). -/
def retire (r : Record) (s : State) : State :=
  let s := s.setSw (s.sw.remove r.serial)
  let s := s.setWt (s.wt.retire r)
  let s := s.setGh (s.gh.file r)
  let s := match r.context with
    | some c => s.setSx { s.sx with checkpoint := some c }
    | none => s
  let s := s.setRc { s.rc with counters := s.rc.counters.retire r.flags, openCopy := some (r.tag, r.copy) }
  let s := s.setQueue (updateOrder s.queue r.tag fun o => o.accumulate r.flags)
  let s := if r.flags.last then completeCopy r s else s
  placesFreed s

/-- A REPOSITION record retires (R93). -/
def retireReposition (r : Record) (s : State) : State :=
  let s := s.setSw (s.sw.remove r.serial)
  let s := s.setWt (s.wt.retire r)
  let s := s.setGh { s.gh with rewindable := 0 }
  let s := s.setRc { s.rc with openCopy := some (r.tag, r.copy) }
  placesFreed s

/-- The findings of a needle-up (R90). -/
inductive Finding where
  | empty
  | notTaken
  | retired (r : Record)
  deriving DecidableEq, Repr

def Window.finding (w : Window) : Finding :=
  match w.ring with
  | [] => .empty
  | r :: _ => if r.kind ≠ .reposition ∧ r.takenHead = true ∧ r.takenFeed = true then .retired r else .notTaken

/-! ### REPORT MOVED (R88) -/

/-- The drive whose move the requester reports. -/
def driveOfRole : Role → Drive
  | .feed => .feed
  | _ => .head

def Record.setMoved (r : Record) : Drive → Record
  | .head => { r with movedHead := true }
  | .feed => { r with movedFeed := true }

/-- REPORT_MOVED (R88). That STANDBY is tested before the serial is the model's choice (log 38). -/
def execReportMoved (src : NodeId) (serial : Word32) (s : State) : Host.Outcome State Fault Refusal :=
  .next <| takeRequest (.reportMoved src serial) (s := s) fun sv s =>
    let d := driveOfRole sv.role
    if s.rc.state = .standby then answer sv .refusedState [] s
    else if serial = 0 then answer sv .badParam [] s
    else
      match s.sw.find serial with
      | none => answer sv .outOfSequence (octets32 (s.sw.cursor d)) s
      | some r =>
        if r.kind ≠ .reposition ∨ r.takenBy d = false then answer sv .outOfSequence (octets32 (s.sw.cursor d)) s
        else
          let r' := r.setMoved d
          let s := s.setSw (s.sw.update serial fun _ => r')
          if r'.movedHead && r'.movedFeed then answer sv .ok [1] (retireReposition r' s) else answer sv .ok [0] s

/-! ### Discard (R94, R144) -/

/-- Every record is discarded, with the records that wait and the reservations of the discarded ones. -/
def discard (s : State) : State :=
  (s.setWt { s.wt with
      reservations := s.wt.reservations.filter fun x => !(s.sw.ring.any fun r => r.serial == x.serial) }).setSw
    { s.sw with ring := [], waiting := [] }

end Sys2Proof.Machine
end

