-- ==== Sys2Proof/Machine/Queue.lean ====
section
/-! DEFINITION. The Panel Queue's requests (R42 to R52, R75). -/

namespace Sys2Proof.Machine

/-! ### ENQUEUE (R42 to R44) -/

/-- An optional field: 0xFF is absent (chapter 11). -/
def optionalField (x : Byte) (store : Nat → Nat) : Option Nat := if x = 0xFF then none else some (store x.toNat)

/-- A stored optional field differs from the value given. -/
def optionalChanged (x : Byte) (stored : Option Nat) : Bool := (stored.map fun n => n != x.toNat).getD false

def modeOfCode (m : Byte) : Option Mode :=
  match m.toNat with
  | 0x00 => some .whole
  | 0x01 => some .truncate
  | _ => none

/-- Step 1 of R42. -/
def enqueueBad (tag : Word16) (slot : Byte) (length : Word16) (mode : Byte) (groups : Word32) (copies : Byte) : Bool :=
  tag == 0 || decide (31 < slot.toNat) || decide (length.toNat < 100) || decide (40000 < length.toNat) ||
    (modeOfCode mode).isNone || groups == 0 || copies == 0

/-- The order as it is stored (R43, R40, R41, R44). -/
def newOrder (travel : Nat) (info : SlotInfo) (tag : Word16) (slot : Byte) (length gap : Word16) (mode stitch : Byte)
    (start : Word16) (groups : Word32) (tackCount tackLength copies : Byte) : Order where
  tag := tag
  slot := slot.toNat
  length := length.toNat
  gap := min gap.toNat 2000
  mode := (modeOfCode mode).getD .whole
  stitch := optionalField stitch fun n => clampNat n 10 100
  start := min start.toNat travel
  groups := groups
  tackCount := optionalField tackCount storedTackCount
  tackLength := optionalField tackLength fun n => clampNat n 1 20
  copies := copies.toNat
  copiesEnded := 0
  copyLimit := copies.toNat
  willClip := clipExpected (min start.toNat travel) travel info
  clipped := 0
  skipped := 0
  rewinds := 0
  spliceLate := false
  pendingLate := []

/-- The fields ENQUEUE changed (R43). -/
def Order.changedFields (o : Order) (gap : Word16) (stitch : Byte) (start : Word16) (tackCount tackLength : Byte) : Byte :=
  changedOctet (o.gap != gap.toNat) (optionalChanged stitch o.stitch) (o.start != start.toNat)
    (optionalChanged tackCount o.tackCount) (optionalChanged tackLength o.tackLength)

/-- The expander holding with QUEUE_EMPTY takes the joined order up at copy 1 (R43, R74; log 26). -/
def orderJoined (o : Order) (s : State) : State :=
  if s.sx.state = .holding .queueEmpty then takeUp o 1 s else s

/-- ENQUEUE (R42, R43). -/
def execEnqueue (src : NodeId) (tag : Word16) (slot : Byte) (length gap : Word16) (mode stitch : Byte) (start : Word16)
    (groups : Word32) (tackCount tackLength copies : Byte) (s : State) : Host.Outcome State Fault Refusal :=
  .next <| takeRequest (.enqueue src tag slot length gap mode stitch start groups tackCount tackLength copies) (s := s)
    fun sv s =>
      if enqueueBad tag slot length mode groups copies then answer sv .badParam [] s
      else if Config.queueSize ≤ s.queue.length then answer sv .full [] s
      else if (findOrder s.queue tag).isSome then answer sv .duplicate [] s
      else
        match closedInfo s.pl.table slot.toNat with
        | none => answer sv .notClosed [] s
        | some info =>
          if info.reverse = true ∧ s.st.working.yRev = 0 then answer sv .patternUnfit [] s
          else
            let o := newOrder s.st.working.travel info tag slot length gap mode stitch start groups tackCount tackLength copies
            let changed := o.changedFields gap stitch start tackCount tackLength
            let position := s.queue.length + 1
            answer sv (if changed = 0 then .ok else .okClamped)
              [BitVec.ofNat 8 position, boolOctet o.willClip, changed]
              (settle (orderJoined o (s.setQueue (s.queue ++ [o]))))

/-! ### CANCEL (R49, R50, R75) -/

/-- The copy in hand of an order (R50). -/
def State.copyInHand (s : State) (o : Order) : Nat :=
  match s.sx.context.tag, s.sx.context.copy with
  | some tag, some copy =>
    if tag = o.tag then copy else max ((s.sw.highestCopy o.tag).getD 0) o.currentCopy
  | _, _ => max ((s.sw.highestCopy o.tag).getD 0) o.currentCopy

/-- The expander leaves a removed order for the one that followed it (R75; log 27). -/
def leaveOrder (following : Option Order) (s : State) : State :=
  match s.sx.state with
  | .idle | .holding .queueEmpty | .holding .endRequested => s
  | .expanding | .holding .windowFull | .holding .cutReserveFull =>
    let s := dropReads s
    let s := s.setSx { s.sx with context := { s.sx.context with tag := none, copy := none, phase := .done } }
    match following with
    | some o => takeUp o o.currentCopy s
    | none => hold .queueEmpty s

/-- CANCEL of an order whose current copy is not open (R49). -/
def cancelRemove (o : Order) (s : State) : State :=
  let following := orderAfter s.queue o.tag
  let s := s.setQueue (removeOrder s.queue o.tag)
  settle (if s.sx.context.tag = some o.tag then leaveOrder following s else s)

/-- CANCEL (R49, R50). -/
def execCancel (src : NodeId) (tag : Word16) (s : State) : Host.Outcome State Fault Refusal :=
  .next <| takeRequest (.cancel src tag) (s := s) fun sv s =>
    match findOrder s.queue tag with
    | none => answer sv .notFound [] s
    | some o =>
      if o.isOpen s.sw.ring s.rc.openCopy then
        let limit := s.copyInHand o
        answer sv .trimmed (octet limit ++ octet (limit - o.copiesEnded))
          (s.setQueue (updateOrder s.queue tag fun o => { o with copyLimit := limit }))
      else answer sv .ok [] (cancelRemove o s)

/-! ### Reading the queue (R51, R52) -/

/-- READ_QUEUE (R51). -/
def execReadQueue (src : NodeId) (s : State) : Host.Outcome State Fault Refusal :=
  .next <| takeRequest (.readQueue src) (s := s) fun sv s =>
    answer sv .ok (octet s.queue.length ++ (s.queue.flatMap fun o => octets16 o.tag) ++
      (match s.queue with
       | [] => []
       | o :: _ => octet o.copiesEnded ++ octet o.copiesLeft ++ [boolOctet (o.isOpen s.sw.ring s.rc.openCopy)])) s

/-- An optional field as READ ORDER gives it: 0xFF when absent (R178). -/
def optionalOctet (x : Option Nat) : List Byte := octet (x.getD 255)

def Mode.code : Mode → Byte
  | .whole => 0
  | .truncate => 1

/-- The fields of an order, in the order and widths of ENQUEUE (R52, chapter 11). -/
def Order.fieldOctets (o : Order) : List Byte :=
  octets16 o.tag ++ octet o.slot ++ octetsNat16 o.length ++ octetsNat16 o.gap ++ [o.mode.code] ++
    optionalOctet o.stitch ++ octetsNat16 o.start ++ octets32 o.groups ++ optionalOctet o.tackCount ++
    optionalOctet o.tackLength ++ octet o.copies

/-- The progress of an order (R52, chapter 11). -/
def Order.progressOctets (o : Order) : List Byte :=
  octet o.copies ++ octet o.copyLimit ++ octet o.copiesEnded ++ octet o.copiesLeft ++ [boolOctet o.willClip] ++
    octet o.currentCopy ++ octets16 o.clipped ++ octets16 o.skipped ++ octets16 o.rewinds ++ [boolOctet o.spliceLate] ++
    octets16 (pendingMap o.currentCopy o.pendingLate)

/-- READ_ORDER (R52; log 32). -/
def execReadOrder (src : NodeId) (tag : Word16) (part : Byte) (s : State) : Host.Outcome State Fault Refusal :=
  .next <| takeRequest (.readOrder src tag part) (s := s) fun sv s =>
    match findOrder s.queue tag with
    | none => answer sv .notFound [] s
    | some o =>
      match part.toNat with
      | 0x00 => answer sv .ok (o.fieldOctets ++ octet ((s.queue.findIdx fun x => x.tag == tag) + 1)) s
      | 0x01 => answer sv .ok o.progressOctets s
      | _ => answer sv .badParam [] s

end Sys2Proof.Machine
end

