-- ==== Sys2Proof/Machine/Run.lean ====
section
/-! DEFINITION. Run Control (R98 to R120): the needle-up, HOLD, the timers, starting, ending, recovery, status and counters. -/

namespace Sys2Proof.Machine

/-! ### Needle-up (R100 to R103) -/

/-- The counters change. -/
def State.countRun (s : State) (f : RunCounters → RunCounters) : State :=
  s.setRc { s.rc with counters := f s.rc.counters }

/-- A needle-up in RUN (R102). -/
def needleUpRun (s : State) : State :=
  match s.sw.finding with
  | .retired r => retire r s
  | .notTaken => raiseCause .lateTake (s.countRun fun c => { c with lateTakes := saturatingSucc c.lateTakes })
  | .empty => raiseCause (if s.sx.state = .holding .cutReserveFull then .cutBacklog else .starved) s

/-- A needle-up in HALTING (R103). -/
def needleUpHalting (s : State) : State :=
  let s := s.setRc { s.rc with silence := some s.st.working.stopSilence }
  match s.sw.finding with
  | .retired r => retire r s
  | .notTaken | .empty => s.countRun fun c => { c with coasts := saturatingSucc c.coasts }

/-- An accepted needle-up, by run state (R101 to R103). -/
def needleUp (s : State) : State :=
  match s.rc.state with
  | .standby => s.countRun fun c => { c with idleCycles := saturatingSucc c.idleCycles }
  | .priming | .halted => raiseCause .motion s
  | .run => needleUpRun s
  | .halting => needleUpHalting s

/-- NEEDLE_UP (R100): an active edge of NUP after the input was inactive for a time. -/
def execNeedleUp (inactiveUs : Nat) (s : State) : Host.Outcome State Fault Refusal :=
  .next <| whenReady s fun s => if Config.nupInactiveUs ≤ inactiveUs then needleUp s else s

/-! ### HOLD (R106, R107) -/

/-- The seen level of HOLD changes (R107). While the part drives HOLD the seen level is asserted whatever others do. -/
def holdSeen (asserted : Bool) (s : State) : State :=
  if s.rc.holdDriven || s.rc.holdSeen == asserted then s
  else
    let s := s.setRc { s.rc with holdSeen := asserted }
    if asserted = true ∧ (s.rc.state = .priming ∨ s.rc.state = .run) then raiseCause .holdExternal s else s

/-- HOLD_SEEN_CHANGE (R107): HOLD has stood at a level for a time. -/
def execHoldSeenChange (asserted : Bool) (stableUs : Nat) (s : State) : Host.Outcome State Fault Refusal :=
  .next <| whenReady s fun s => if Config.holdStableUs ≤ stableUs then holdSeen asserted s else s

/-! ### Coming to rest (R104, R105) -/

/-- HALTING ends in HALTED; the timer stops (R104, R105). -/
def enterHalted (reason : StateReason) (s : State) : State :=
  enterRunState .halted reason (s.setRc { s.rc with silence := none })

/-- STOP_SILENCE_EXPIRY (R104). -/
def execStopSilenceExpiry (s : State) : Host.Outcome State Fault Refusal :=
  .next <| whenReady s fun s => if s.rc.silence.isSome && decide (s.rc.state = .halting) then enterHalted .silence s else s

/-- REPORT_STOPPED (R105). -/
def execReportStopped (src : NodeId) (s : State) : Host.Outcome State Fault Refusal :=
  .next <| takeRequest (.reportStopped src) (s := s) fun sv s =>
    match s.rc.state with
    | .halting => answer sv .ok [] (enterHalted .stopped s)
    | .halted => answer sv .ok [] s
    | .standby | .priming | .run => answer sv .refusedState [] s

/-! ### Starting and ending a run (R108 to R112) -/

/-- The role table holds a role. -/
def holdsRole (roles : List RoleEntry) (r : Role) : Bool := roles.any fun e => e.role == r

/-- The first queued order that needs reverse feed (R108). -/
def firstReverse (queue : List Order) (table : List SlotEntry) : Option Order :=
  queue.find? fun o => ((closedInfo table o.slot).map SlotInfo.reverse).getD false

/-- Both cursors stand at a serial. -/
def Window.setCursors (w : Window) (serial : Word32) : Window := { w with headNext := serial, feedNext := serial }

/-- An accepted START (R109). -/
def startRun (s : State) : State :=
  let s := s.setRc { s.rc with endRequested := false }
  let s := s.setSw ({ s.sw with leadLimit := s.st.working.leadLimit } |>.setCursors s.sw.counter)
  let s := s.setGh { s.gh with rewindable := 0 }
  let s := startExpander s
  settle (enterRunState .priming .start s)

/-- START (R108, R109). -/
def execStart (src : NodeId) (s : State) : Host.Outcome State Fault Refusal :=
  .next <| takeRequest (.start src) (s := s) fun sv s =>
    if s.rc.state ≠ .standby then answer sv .refusedState [] s
    else if s.queue = [] then answer sv .empty [] s
    else if s.gh.broken ≠ 0 then answer sv .brokenGroups (octets32 s.gh.broken) s
    else if !(holdsRole s.st.working.roles .head && holdsRole s.st.working.roles .feed) then answer sv .noDrives [] s
    else
      match (if s.st.working.yRev = 0 then firstReverse s.queue s.pl.table else none) with
      | some o => answer sv .patternUnfit (octets16 o.tag) s
      | none =>
        if s.rc.causes ≠ 0 then answer sv .causesPending (octets16 s.rc.causes) s
        else if s.rc.holdSeen then answer sv .held [] s
        else answer sv .ok [] (startRun s)

/-- STOP (R111). -/
def execStop (src : NodeId) (s : State) : Host.Outcome State Fault Refusal :=
  .next <| takeRequest (.stop src) (s := s) fun sv s =>
    match s.rc.state with
    | .standby => answer sv .refusedState [] s
    | .priming | .run => answer sv .ok [] (raiseCause .supervisorStop s)
    | .halting | .halted => answer sv .ok [] s

/-- The end-requested flag reaches an expander holding with QUEUE_EMPTY (R74, R112). -/
def endRequested (s : State) : State :=
  let s := s.setRc { s.rc with endRequested := true }
  settle (if s.sx.state = .holding .queueEmpty then hold .endRequested s else s)

/-- END_RUN (R112). -/
def execEndRun (src : NodeId) (s : State) : Host.Outcome State Fault Refusal :=
  .next <| takeRequest (.endRun src) (s := s) fun sv s =>
    if s.rc.state = .standby then answer sv .refusedState [] s else answer sv .ok [] (endRequested s)

/-! ### Recovery (R113 to R116) -/

/-- The cause set without the named causes; THREAD_BREAK stays while a group is broken (R113, R116). -/
def clearedCauses (causes named : Word16) (broken : Word32) : Word16 :=
  causes &&& ~~~(if broken = 0 then named else named &&& ~~~Cause.threadBreak.bit)

/-- The bits of a cause set that the part reads (R177). -/
def causeMask : Word16 := 0x01FF

/-- CLEAR_CAUSES (R113). -/
def execClearCauses (src : NodeId) (named : Word16) (s : State) : Host.Outcome State Fault Refusal :=
  .next <| takeRequest (.clearCauses src named) (s := s) fun sv s =>
    let left := clearedCauses s.rc.causes (named &&& causeMask) s.gh.broken
    answer sv .ok (octets16 left) (s.setRc { s.rc with causes := left })

/-- The REPOSITION record in the window (R114). -/
def Window.reposition (w : Window) : Option Record := w.ring.find? fun r => r.kind == .reposition

/-- RESUME (R114): HOLD is released and the settle begins; the request waits for its end. -/
def execResume (src : NodeId) (s : State) : Host.Outcome State Fault Refusal :=
  .next <| takeRequest (.resume src) (s := s) fun sv s =>
    if s.rc.state ≠ .halted then answer sv .refusedState [] s
    else if s.rc.causes ≠ 0 then answer sv .causesPending (octets16 s.rc.causes) s
    else
      match s.sw.reposition with
      | some r => answer sv .repositionPending (octets32 r.serial) s
      | none => (s.setRc s.rc.releaseHold).serviceWaits sv .settle

/-- The end of a RESUME's settle (R114). -/
def resumeSettled (sv : Service) (s : State) : State :=
  if s.rc.holdSeen then answer sv .held [] (raiseCause .holdExternal (s.setRc s.rc.driveHold))
  else if s.rc.causes ≠ 0 then answer sv .causesPending (octets16 s.rc.causes) (s.setRc s.rc.driveHold)
  else
    let entered : RunState := if s.st.working.primeDepth ≤ s.sw.ring.length then .run else .priming
    answer sv .ok [entered.code] (settle (enterRunState entered .resume s))

/-- RESUME_SETTLE_END (R114). -/
def execResumeSettleEnd (s : State) : Host.Outcome State Fault Refusal :=
  .next <| whenReady s fun s =>
    match s.waitingService .settle with
    | some sv => resumeSettled sv s
    | none => s

/-- The copy of the open copy note ends as aborted; the pending list is not applied (R48). -/
def abortCopy (tag : Word16) (copy : Nat) (s : State) : State :=
  match findOrder s.queue tag with
  | none => s
  | some o =>
    announcePanelDone tag copy o.endCopy.copiesLeft none
      ((s.countRun fun c => { c with aborted := saturatingSucc c.aborted }).setQueue (endCopy Order.endCopy s.queue o))

/-- The note's octets in an answer: 0 where it is absent (R178). -/
def noteOctets (note : Option (Word16 × Nat)) : List Byte :=
  match note with
  | some (tag, copy) => octets16 tag ++ octet copy
  | none => [0, 0, 0]

/-- An ABORT in HALTED (R116, R96, R78). With the pending lists the splice-late flag of every queued order is cleared, since the
queue holds zero accumulators for the copy that the next START takes up (R53, R41; log 36). -/
def abortRun (s : State) : State :=
  let s := discard s
  let s := s.setSw (s.sw.setCursors s.sw.counter)
  let s := match s.rc.openCopy with
    | some (tag, copy) => abortCopy tag copy s
    | none => s
  let s := s.setQueue (s.queue.map fun o => { o with spliceLate := false, pendingLate := [] })
  let s := abortExpander s
  let s := s.setRc ({ s.rc with
    openCopy := none
    causes := clearedCauses s.rc.causes (BitVec.allOnes 16) s.gh.broken }).releaseHold
  portNext (enterRunState .standby .abort s)

/-- ABORT (R116). -/
def execAbort (src : NodeId) (s : State) : Host.Outcome State Fault Refusal :=
  .next <| takeRequest (.abort src) (s := s) fun sv s =>
    if s.rc.state ≠ .halted then answer sv .refusedState [] s
    else answer sv .ok (noteOctets s.rc.openCopy) (abortRun s)

/-! ### Status and counters (R117 to R119) -/

/-- READ STATUS part RUN (chapter 11). -/
def runOctets (s : State) : List Byte :=
  [s.rc.state.code] ++ octets16 s.rc.causes ++ [s.rc.flagOctet, s.sx.state.code] ++ octet s.queue.length ++
    octet s.sw.ring.length ++ octets32 s.sw.oldest ++ octets32 s.sw.headNext ++ octets32 s.sw.feedNext ++
    octets32 s.wt.web ++ octetsInt16 s.wt.lateral

/-- READ STATUS part SETS. -/
def setsOctets (s : State) : List Byte :=
  octets32 s.gh.broken ++ octets32 s.gh.parked ++ [boolOctet s.rc.openCopy.isSome] ++ noteOctets s.rc.openCopy

/-- READ STATUS part LIBRARY. -/
def libraryOctets (s : State) : List Byte :=
  [s.pl.state.code, libraryFlagOctet s.pl.failFlag s.st.defaults] ++ slotStateOctets s.pl.table

/-- READ_STATUS (R118). -/
def execReadStatus (src : NodeId) (part : Byte) (s : State) : Host.Outcome State Fault Refusal :=
  .next <| takeRequest (.readStatus src part) (s := s) fun sv s =>
    match part.toNat with
    | 0x00 => answer sv .ok (runOctets s) s
    | 0x01 => answer sv .ok (setsOctets s) s
    | 0x02 => answer sv .ok (libraryOctets s) s
    | _ => answer sv .badParam [] s

/-- The 14 counters in the order of their indices (R117). -/
def State.allCounters (s : State) : List Word32 :=
  [s.rc.counters.stitches, s.rc.counters.completed, s.rc.counters.aborted, s.rc.counters.clipped, s.rc.counters.skipped,
    s.rc.counters.lateTakes, s.rc.counters.coasts, s.rc.counters.idleCycles, s.lp.counters.bitErrors,
    s.lp.counters.refusals, s.lp.counters.losses, s.lp.counters.undelivered, s.lp.counters.dropped,
    s.rc.counters.suspensions]

/-- READ_COUNTERS (R119): up to six counters. -/
def execReadCounters (src : NodeId) (first : Byte) (s : State) : Host.Outcome State Fault Refusal :=
  .next <| takeRequest (.readCounters src first) (s := s) fun sv s =>
    if 13 < first.toNat then answer sv .badParam [] s
    else answer sv .ok (first :: ((s.allCounters.drop first.toNat).take 6).flatMap octets32) s

/-- CLEAR_COUNTERS (R119). -/
def execClearCounters (src : NodeId) (s : State) : Host.Outcome State Fault Refusal :=
  .next <| takeRequest (.clearCounters src) (s := s) fun sv s =>
    answer sv .ok [] ((s.setRc { s.rc with counters := .zero }).setLp { s.lp with counters := .zero })

end Sys2Proof.Machine
end

