-- ==== Sys2Proof/Machine/GroupsHistory.lean ====
section
/-! DEFINITION. Groups and History (R122 to R138): breaks and parking, BACKSTITCH, and the history's read. -/

namespace Sys2Proof.Machine

/-! ### The group sets (R122 to R126) -/

/-- The groups of a report that stand in the broken set newly (R123). -/
def Groups.newlyBroken (g : Groups) (groups : Word32) : Word32 := groups &&& ~~~g.parked &&& ~~~g.broken

/-- A break of newly broken groups raises THREAD_BREAK in these states (R123). -/
def breakRaises (state : RunState) : Bool :=
  match state with
  | .priming | .run | .halting => true
  | .standby | .halted => false

/-- REPORT_BREAK (R123). -/
def execReportBreak (src : NodeId) (groups : Word32) (s : State) : Host.Outcome State Fault Refusal :=
  .next <| takeRequest (.reportBreak src groups) (s := s) fun sv s =>
    if groups = 0 then answer sv .badParam [] s
    else
      let raised := s.gh.newlyBroken groups != 0 && breakRaises s.rc.state
      let broken := s.gh.broken ||| (groups &&& ~~~s.gh.parked)
      let ignored := groups &&& s.gh.parked
      let s := s.setGh { s.gh with broken := broken }
      let s := if raised then raiseCause .threadBreak s else s
      answer sv .ok (octets32 ignored ++ octets32 broken ++ [boolOctet raised]) s

/-- REPORT_MENDED (R124). -/
def execReportMended (src : NodeId) (groups : Word32) (s : State) : Host.Outcome State Fault Refusal :=
  .next <| takeRequest (.reportMended src groups) (s := s) fun sv s =>
    if groups = 0 then answer sv .badParam [] s
    else
      let broken := s.gh.broken &&& ~~~groups
      answer sv .ok (octets32 broken) (s.setGh { s.gh with broken := broken })

/-- What PARK and UNPARK answer (R125). -/
def parkOctets (s : State) : List Byte := octets32 s.gh.parked ++ octets32 s.gh.broken ++ octets32 s.sw.headNext

/-- PARK (R125). -/
def execPark (src : NodeId) (groups : Word32) (s : State) : Host.Outcome State Fault Refusal :=
  .next <| takeRequest (.park src groups) (s := s) fun sv s =>
    if groups = 0 then answer sv .badParam [] s
    else
      let s := s.setGh { s.gh with parked := s.gh.parked ||| groups, broken := s.gh.broken &&& ~~~groups }
      answer sv .ok (parkOctets s) s

/-- UNPARK (R126). -/
def execUnpark (src : NodeId) (groups : Word32) (s : State) : Host.Outcome State Fault Refusal :=
  .next <| takeRequest (.unpark src groups) (s := s) fun sv s =>
    if groups = 0 then answer sv .badParam [] s
    else
      let s := s.setGh { s.gh with parked := s.gh.parked &&& ~~~groups }
      answer sv .ok (parkOctets s) s

/-! ### BACKSTITCH (R130 to R135) -/

/-- A record as it joins a replay list (R134). -/
def Record.replayed (r : Record) : Record :=
  { r with
    effective := none
    flags := { r.flags with clipped := false, replay := true, skipped := false }
    takenHead := false
    takenFeed := false
    context := none }

/-- The REPLAY record of a history entry (R134). -/
def HistoryEntry.replay (e : HistoryEntry) : Record :=
  Record.replayed ⟨0, e.kind, e.dx, e.dy, e.lateral, e.web, e.effective, none, e.tag, e.copy, e.flags, false, false, false,
    false, none⟩

/-- The carried records (R131). -/
def Window.carried (w : Window) : List Record :=
  match w.ring with
  | [] => []
  | r :: _ =>
    if r.kind = .reposition then []
    else ((w.ring.filter fun r => r.flags.replay) ++ w.waiting).map Record.replayed

/-- The newest entries of the history, oldest first. -/
def Groups.newest (g : Groups) (n : Nat) : List HistoryEntry := g.history.drop (g.history.length - n)

/-- The REPOSITION record that leads back to the point before the oldest rewound entry (R133). -/
def repositionRecord (e : HistoryEntry) (entries : List HistoryEntry) (w : Web) : Record :=
  let dy := -(entries.map HistoryEntry.dy).sum
  ⟨0, .reposition, e.lateral - e.dx - w.lateral, dy, e.lateral - e.dx, moveWeb w.web dy, 0, none, e.tag, e.copy, .clear,
    false, false, false, false, none⟩

/-- The number rewound (R130). -/
def rewound (n : Byte) (h : Nat) : Nat := min n.toNat (min Config.rewindMost h)

/-- The window after a BACKSTITCH has emptied it (R135, R95). -/
def Window.placeReplay (w : Window) (reposition : Record) (replay : List Record) : Window :=
  let serial := w.counter
  let w := (w.join reposition)
  (({ w with waiting := replay } : Window).joinWaiting Config.windowSize).setCursors serial

/-- One more rewind of the copy named by the open copy note (R135, R41). -/
def countRewind (note : Option (Word16 × Nat)) (queue : List Order) : List Order :=
  match note with
  | none => queue
  | some (tag, copy) =>
    updateOrder queue tag fun o => if o.currentCopy = copy then { o with rewinds := saturatingSucc o.rewinds } else o

/-- An accepted BACKSTITCH, before its answer (R131 to R135). -/
def backstitch (reposition : Record) (replay : List Record) (s : State) : State :=
  let s := rollback (discard s)
  let s := settle (s.setSw (s.sw.placeReplay reposition replay))
  announceState .backstitch (s.setQueue (countRewind s.rc.openCopy s.queue))

/-- BACKSTITCH (R130 to R135). -/
def execBackstitch (src : NodeId) (n : Byte) (s : State) : Host.Outcome State Fault Refusal :=
  .next <| takeRequest (.backstitch src n) (s := s) fun sv s =>
    if s.rc.state ≠ .halted then answer sv .refusedState [] s
    else if n = 0 then answer sv .badParam [] s
    else
      let count := rewound n s.gh.rewindable
      match s.gh.newest count with
      | [] => answer sv .nothingToRewind [] s
      | e :: rest =>
        let r := repositionRecord e (e :: rest) s.wt
        let carried := s.sw.carried
        answer sv (if count < n.toNat then .okClamped else .ok)
          (octet count ++ octet carried.length ++ octets32 s.sw.counter ++ octetsInt16 r.dx ++ octetsInt16 r.dy)
          (backstitch r ((e :: rest).map HistoryEntry.replay ++ carried) s)

/-! ### READ HISTORY (R128) -/

/-- The entry of an age, 0 the newest. -/
def Groups.entryOfAge (g : Groups) (age : Nat) : Option HistoryEntry :=
  if age < g.history.length then g.history[g.history.length - 1 - age]? else none

/-- A history entry in an answer (chapter 11). -/
def HistoryEntry.octets (e : HistoryEntry) : List Byte :=
  octets32 e.serial ++ [e.kind.code] ++ octetsInt16 e.dx ++ octetsInt16 e.dy ++ octetsInt16 e.lateral ++ octets32 e.web ++
    octets32 e.effective ++ octets16 e.tag ++ octet e.copy ++ [e.flags.octet]

/-- READ_HISTORY (R128). -/
def execReadHistory (src : NodeId) (age : Byte) (s : State) : Host.Outcome State Fault Refusal :=
  .next <| takeRequest (.readHistory src age) (s := s) fun sv s =>
    if 63 < age.toNat then answer sv .badParam [] s
    else
      answer sv .ok (octet s.gh.history.length ++ octet s.gh.rewindable ++
        ((s.gh.entryOfAge age.toNat).map HistoryEntry.octets).getD []) s

end Sys2Proof.Machine
end

