-- ==== Sys2Proof/Machine/WebTracker.lean ====
section
/-! DEFINITION. The Web Tracker's requests (R145 to R150): cuts and splices. -/

namespace Sys2Proof.Machine

/-! ### Cuts (R145, R146) -/

/-- The oldest entry in an answer to CUT QUERY (chapter 11). -/
def CutEntry.octets (e : CutEntry) : List Byte :=
  octets16 e.tag ++ octet e.copy ++ octets32 e.web ++ octets16 e.clipped ++ octets16 e.skipped ++ octets16 e.rewinds ++
    [e.flagOctet]

/-- CUT_QUERY (R145). -/
def execCutQuery (src : NodeId) (s : State) : Host.Outcome State Fault Refusal :=
  .next <| takeRequest (.cutQuery src) (s := s) fun sv s =>
    match s.wt.cuts with
    | [] => answer sv .empty (octet s.wt.reservations.length) s
    | e :: _ => answer sv .ok (octet s.wt.cuts.length ++ octet s.wt.reservations.length ++ e.octets) s

/-- The entry is that of a tag and a copy. -/
def CutEntry.isOf (e : CutEntry) (tag : Word16) (copy : Nat) : Bool := e.tag == tag && e.copy == copy

/-- CUT_DONE (R146). -/
def execCutDone (src : NodeId) (tag : Word16) (copy : Byte) (s : State) : Host.Outcome State Fault Refusal :=
  .next <| takeRequest (.cutDone src tag copy) (s := s) fun sv s =>
    if tag = 0 ∨ copy = 0 then answer sv .badParam [] s
    else
      match s.wt.cuts with
      | [] => answer sv .notFound [] s
      | e :: rest =>
        if e.isOf tag copy.toNat then
          answer sv .ok (octet rest.length) (settle (s.setWt { s.wt with cuts := rest }))
        else if rest.any fun x => x.isOf tag copy.toNat then
          answer sv .outOfSequence (octets16 e.tag ++ octet e.copy) s
        else answer sv .notFound [] s

/-! ### Splices (R148 to R150) -/

/-- The zone of a reported splice (R148). -/
def spliceZone (web : Word32) (half : Nat) : Zone := ⟨web - BitVec.ofNat 32 half, web + BitVec.ofNat 32 half⟩

/-- The newest entry of a tag and copy gets the splice-late flag (R150). -/
def markCut (tag : Word16) (copy : Nat) : List CutEntry → List CutEntry
  | [] => []
  | e :: rest =>
    if rest.any fun x => x.isOf tag copy then e :: markCut tag copy rest
    else if e.isOf tag copy then { e with spliceLate := true } :: rest
    else e :: rest

/-- A copy number joins the pending list, ascending and once (R41). -/
def addPending (copy : Nat) : List Nat → List Nat
  | [] => [copy]
  | c :: rest => if copy < c then copy :: c :: rest else if copy = c then c :: rest else c :: addPending copy rest

/-- The queue applies a splice-late mark (R41). -/
def Order.markLate (o : Order) (copy : Nat) : Order :=
  if copy = o.currentCopy then { o with spliceLate := true }
  else if o.currentCopy < copy then { o with pendingLate := addPending copy o.pendingLate }
  else o

/-- The copy a splice-late mark names (R150). -/
def State.lateCopy (s : State) : Option (Word16 × Nat) :=
  match s.sw.newestTaken with
  | some r => some (r.tag, r.copy)
  | none => s.wt.newest

/-- The splice-late mark (R150). -/
def markLate (s : State) : State :=
  match s.lateCopy with
  | none => s
  | some (tag, copy) =>
    if s.wt.cuts.any fun e => e.isOf tag copy then s.setWt { s.wt with cuts := markCut tag copy s.wt.cuts }
    else s.setQueue (updateOrder s.queue tag fun o => o.markLate copy)

/-- A full zone list raises SPLICE_OVERFLOW in PRIMING and RUN alone (R148). -/
def spliceOverflow (s : State) : State :=
  match s.rc.state with
  | .priming | .run => raiseCause .spliceOverflow s
  | .standby | .halting | .halted => s

/-- REPORT_SPLICE (R148 to R150). -/
def execReportSplice (src : NodeId) (web : Word32) (s : State) : Host.Outcome State Fault Refusal :=
  .next <| takeRequest (.reportSplice src web) (s := s) fun sv s =>
    if s.rc.state = .standby then answer sv .refusedState [] s
    else if Config.zoneSize ≤ s.wt.zones.length then
      answer sv .full (s.wt.zones.flatMap fun z => octets32 z.last) (spliceOverflow s)
    else
      let z := spliceZone web s.st.working.spliceHalf
      let late := !liesAfter z.first s.newestTakenWeb
      let zones := s.wt.zones ++ [z]
      let s := s.setWt { s.wt with zones := zones }
      let s := if late then markLate (raiseCause .spliceLate s) else s
      answer sv (if late then .okLate else .ok) (octets32 z.first ++ octets32 z.last ++ octet zones.length) s

end Sys2Proof.Machine
end

