-- ==== Sys2Proof/Machine/SettingsOps.lean ====
section
/-! DEFINITION. Settings (R162, R166 to R175): setting and reading them, roles, the setup page's requests, RESET PART. -/

namespace Sys2Proof.Machine

/-! ### SET SETTING and READ SETTING (R167 to R169) -/

/-- The settings in force follow a stored node number, cell time or filter once the answer is gone (R152, R168; log 18). -/
def afterSetting (code : Byte) (st : Settings) : AfterFrame :=
  match code.toNat with
  | 0x01 => { AfterFrame.none with node := some st.nodeNumber }
  | 0x02 => { AfterFrame.none with cellTime := some st.cellTime }
  | 0x03 => { AfterFrame.none with filter := some st.lineFilter }
  | _ => .none

/-- The queue applies a travel to every order (R44, R167). -/
def applyTravel (s : State) : State :=
  s.setQueue (s.queue.map fun o => o.withTravel s.st.working.travel s.pl.table)

/-- The parameters of an accepted SET SETTING: the stored value, and for travel the home lateral (R167). -/
def settingOctets (code : Byte) (width : Nat) (old new : Settings) : List Byte :=
  octetsOfWidth width (new.value code) ++
    (if code = 0x04 then octetsNat16 new.homeLateral ++ [boolOctet (new.homeLateral != old.homeLateral)] else [])

/-- A value is stored, changed as R166 gives, and answered (R167). -/
def storeSetting (sv : Service) (code : Byte) (width v : Nat) (s : State) : State :=
  let new := s.st.working.store code v
  let status : Status := if new.value code = v then .ok else .okClamped
  let octets := settingOctets code width s.st.working new
  let s := s.setSt { s.st with working := new }
  answerThen sv status octets (afterSetting code new) (if code = 0x04 then applyTravel s else s)

/-- The number of value octets is one the request can have: the setting's width, and 1 to 4 where the code names no setting
(R177 and its request table; log 17). -/
def valueCountOk (width : Option Nat) (count : Nat) : Bool :=
  match width with
  | some w => count == w
  | none => decide (1 ≤ count) && decide (count ≤ 4)

/-- SET_SETTING (R167, R177; log 17). -/
def execSetSetting (src : NodeId) (code : Byte) (value : List Byte) (s : State) : Host.Outcome State Fault Refusal :=
  .next <| takeRequest (.setSetting src code value) (s := s) fun sv s =>
    let width := settingWidth code
    if valueCountOk width value.length = false then answer sv .badParam [] s
    else if s.rc.state ≠ .standby then answer sv .refusedState [] s
    else
      match width with
      | none => answer sv .badParam [] s
      | some w =>
        if settingRefused code (natOfOctets value) then answer sv .badParam [] s
        else storeSetting sv code w (natOfOctets value) s

/-- READ_SETTING (R169). -/
def execReadSetting (src : NodeId) (code : Byte) (s : State) : Host.Outcome State Fault Refusal :=
  .next <| takeRequest (.readSetting src code) (s := s) fun sv s =>
    match settingWidth code with
    | none => answer sv .badParam [] s
    | some w => answer sv .ok (octetsOfWidth w (s.st.working.value code)) s

/-! ### Roles (R162, R170) -/

/-- The role table after an accepted SET ROLE; a role of none removes the node's entry. -/
def setRoleTable (roles : List RoleEntry) (node : Nat) (role : Option Role) : List RoleEntry :=
  match role with
  | none => roles.filter fun e => e.node != node
  | some r =>
    if roles.any fun e => e.node == node then roles.map fun e => if e.node == node then ⟨node, r⟩ else e
    else roles ++ [⟨node, r⟩]

/-- Another node holds a role that stands once (R170). -/
def roleHeld (roles : List RoleEntry) (node : Nat) (role : Option Role) : Bool :=
  match role with
  | none => false
  | some r => r.single && roles.any fun e => e.role == r && e.node != node

/-- SET_ROLE (R170). -/
def execSetRole (src : NodeId) (node role : Byte) (s : State) : Host.Outcome State Fault Refusal :=
  .next <| takeRequest (.setRole src node role) (s := s) fun sv s =>
    let roles := s.st.working.roles
    let given := roleOfCode role
    if s.rc.state ≠ .standby then answer sv .refusedState [] s
    else if 30 < node.toNat ∨ 6 < role.toNat then answer sv .badParam [] s
    else if node.toNat = sv.node.toNat ∧ given ≠ some .supervisor then answer sv .badParam [] s
    else if roleHeld roles node.toNat given then answer sv .duplicate [] s
    else if given.isSome && (roleOfNode roles node.toNat).isNone && decide (Config.roleSize ≤ roles.length) then
      answer sv .full [] s
    else
      let new := setRoleTable roles node.toNat given
      answer sv .ok (octet new.length) (s.setSt { s.st with working := { s.st.working with roles := new } })

/-- READ_TABLE (R162). -/
def execReadTable (src : NodeId) (s : State) : Host.Outcome State Fault Refusal :=
  .next <| takeRequest (.readTable src) (s := s) fun sv s =>
    answer sv .ok (octet s.st.working.roles.length ++
      s.st.working.roles.flatMap fun e => [BitVec.ofNat 8 e.node, e.role.code]) s

/-! ### The setup page (R172, R173) -/

/-- WRITE_SETUP (R172). -/
def execWriteSetup (src : NodeId) (s : State) : Host.Outcome State Fault Refusal :=
  .next <| takeRequest (.writeSetup src) (s := s) fun sv s =>
    if s.rc.state ≠ .standby then answer sv .refusedState [] s
    else if s.pl.op.isSome then answer sv .busy [] s
    else acceptOp sv (.setup s.st.working false) (.stepping .signatureZero) s

/-- RELOAD_SETUP (R173): the page's read waits for its turn at the port. -/
def execReloadSetup (src : NodeId) (s : State) : Host.Outcome State Fault Refusal :=
  .next <| takeRequest (.reloadSetup src) (s := s) fun sv s =>
    if s.rc.state ≠ .standby then answer sv .refusedState [] s
    else if s.pl.op.isSome then answer sv .busy [] s
    else portNext ((s.setPort { s.pl.port with line := some .reload }).serviceWaits sv .reload)

/-- The outcome record of a RELOAD SETUP (R173). -/
def reloadOutcome (result : OpResult) (s : State) : State :=
  s.setPl { s.pl with outcome := some ⟨.reloadSetup, none, none, result⟩ }

/-- The setup page has been read for a RELOAD SETUP (R173, R168). -/
def reloadRead (s : State) : State :=
  match s.waitingService .reload with
  | none => s
  | some sv =>
    match readSetupPage s.pl.array with
    | .error test => answer sv .ok [1, test] (reloadOutcome .failed s)
    | .ok new =>
      answerThen sv .ok [0] ⟨some new.nodeNumber, some new.cellTime, some new.lineFilter, false⟩
        (applyTravel ((reloadOutcome .done s).setSt { s.st with working := new, defaults := false }))

/-! ### RESET PART (R175) -/

/-- RESET_PART (R175): the reset follows once the answer is gone, and nothing more is handed on (R160). -/
def execResetPart (src : NodeId) (s : State) : Host.Outcome State Fault Refusal :=
  .next <| takeRequest (.resetPart src) (s := s) fun sv s =>
    if s.rc.state ≠ .standby then answer sv .refusedState [] s
    else if s.pl.op.isSome then answer sv .busy [] s
    else
      let s := answerThen sv .ok [] { AfterFrame.none with reset := true } s
      s.setLp { s.lp with resetPart := .accepted }

/-- The part after a RESET PART: every block reset, the settings, the slot table and the array kept (R175). That the read port is
empty, too, and a read in flight or waiting there is gone, is the model's choice (log 37). -/
def State.partReset (s : State) : State where
  pins := s.pins
  lp := .afterReset .busy s.st.working
  pl := .afterReset s.pl.array s.pl.table
  queue := []
  sx := .afterReset s.st.working.homeLateral
  sw := .afterReset s.st.working.leadLimit
  rc := .afterReset
  gh := .afterReset
  wt := .afterReset s.st.working.homeLateral
  st := s.st
  pending := s.pending

/-- RESET_PART_APPLY (R175, R120). -/
def execResetPartApply (s : State) : Host.Outcome State Fault Refusal :=
  .next <| whenReady s fun s => if s.lp.resetPart = .due then announceState .startUp s.partReset else s

end Sys2Proof.Machine
end

