-- ==== Sys2Proof/Machine/StartUp.lean ====
section
/-! DEFINITION. Power, RESETN and start-up (R37, R174, R15), and READ_COMPLETE, which brings every read of the array to the one
who asked for it (R32, R57). -/

namespace Sys2Proof.Machine

/-! ### Power and RESETN (R37, R174) -/

/-- POWER_ON (R174): the part is reset and begins start-up, unless RESETN holds it. -/
def execPowerOn (s : State) : Host.Outcome State Fault Refusal :=
  .next (if s.pins.resetnLow then State.held ⟨true, true⟩ s.pl.array s.pending else State.startUp s.pl.array s.pending)

/-- POWER_OFF (R10): whatever was not in the array is lost. -/
def execPowerOff (left : List Host.Cell) (s : State) : Host.Outcome State Fault Refusal :=
  .next (State.held ⟨false, s.pins.resetnLow⟩ (s.pl.cutShort left) s.pending)

/-- RESETN_ASSERT (R37, R174): the part is held reset, and an operation in hand is aborted where it stands. -/
def execResetnAssert (left : List Host.Cell) (s : State) : Host.Outcome State Fault Refusal :=
  .next (State.held ⟨s.pins.supply, true⟩ (s.pl.cutShort left) s.pending)

/-- RESETN_RELEASE (R174). -/
def execResetnRelease (s : State) : Host.Outcome State Fault Refusal :=
  .next (if s.pins.resetnLow && s.pins.supply then State.startUp s.pl.array s.pending
    else s.setPins { s.pins with resetnLow := false })

/-! ### Start-up (R174, R15) -/

/-- The values that follow the settings just loaded (R174, step 2). -/
def followSettings (s : State) : State :=
  let home := s.st.working.homeLateral
  let s := s.setLp { s.lp with
    node := s.st.working.nodeNumber
    cellTime := s.st.working.cellTime
    filter := s.st.working.lineFilter }
  let s := s.setSx { s.sx with context := { s.sx.context with intended := home } }
  let s := s.setSw { s.sw with leadLimit := s.st.working.leadLimit }
  s.setWt { s.wt with lateral := home }

/-- The setup load (R174, step 1). -/
def setupLoad (s : State) : State :=
  followSettings
    (match readSetupPage s.pl.array with
     | .ok new => s.setSt { s.st with working := new, defaults := false }
     | .error _ => s.setSt { s.st with working := .defaults, defaults := true })

/-- A read of start-up is put in flight. -/
def scanNext (r : ScanRead) (s : State) : State := s.setPort { s.pl.port with inFlight := some (.scan r) }

/-- Start-up reaches READY (R174, step 4). -/
def reachReady (found : List SlotEntry) (s : State) : State :=
  let s := s.setPl { s.pl with table := found }
  let s := s.setSt { s.st with startUp := .ready }
  announceState .startUp (s.setLp { s.lp with engine := .busy })

/-- A slot has been classified; the next one follows, or READY (R15, R174). -/
def classified (found : List SlotEntry) (e : SlotEntry) (s : State) : State :=
  let found := found ++ [e]
  if found.length < Config.slotCount then
    scanNext (.page found.length 0) (s.setSt { s.st with startUp := .scanning found })
  else reachReady found s

/-- What a slot's validation at start-up comes to (R15). -/
def scanWalk (found : List SlotEntry) (slot : Nat) (result : WalkResult) (s : State) : State :=
  match result with
  | .more w => scanNext (.segment slot w) s
  | .valid info => classified found (if summaryMatches s.pl.array slot info then .closed info else .failed) s
  | .bad _ _ => classified found .failed s

/-- A read of start-up is complete (R174, R15; log 24). -/
def scanRead (found : List SlotEntry) (r : ScanRead) (s : State) : State :=
  match r with
  | .setup => scanNext (.page 0 0) (setupLoad s)
  | .page slot page =>
    if spanBlank s.pl.array (pageBase slot page) Config.pageBytes then
      if page < 15 then scanNext (.page slot (page + 1)) s else classified found .empty s
    else scanNext (.mark slot) s
  | .mark slot =>
    let mark := arrayByte s.pl.array (markAddress slot)
    if mark = markOpened then classified found .opened s
    else if mark = markClosed then scanNext (.header slot) s
    else classified found .failed s
  | .header slot => scanWalk found slot (walkHeader (headerSegments s.pl.array slot) (headerStitch s.pl.array slot)) s
  | .segment slot w => scanWalk found slot (walkSegment w (readSegment s.pl.array (segmentAddress slot w.index))) s

/-! ### READ_COMPLETE (R32) -/

/-- A read segment comes to the expander, unless its context has been replaced (R57). -/
def expanderRead (slot index : Nat) (live : Bool) (s : State) : State :=
  if live then
    s.setSx { s.sx with hand := s.sx.hand ++ [(index, readSegment s.pl.array (segmentAddress slot index))] }
  else s

/-- A finished read is delivered; the port is free then (R32). -/
def deliver (r : ReadFor) (s : State) : State :=
  match r with
  | .expander slot index live => expanderRead slot index live s
  | .closing => closingRead s
  | .written slot page => writtenRead slot page s
  | .library slot page offset count => libraryRead slot page offset count s
  | .reload => reloadRead s
  | .scan r =>
    match s.st.startUp with
    | .scanning found => scanRead found r s
    | .ready => s

/-- READ_COMPLETE (R32, R34). -/
def execReadComplete (s : State) : Host.Outcome State Fault Refusal :=
  .next <| whenPowered s fun s =>
    match s.pl.port.inFlight with
    | none => s
    | some r => settle (deliver r (s.setPort { s.pl.port with inFlight := none }))

end Sys2Proof.Machine
end

