-- ==== Sys2Proof/Machine/LineEvents.lean ====
section
/-! DEFINITION. The plan line's events (R152 to R160, R164, R165): frames of other nodes, the idle line, handing on, and the
part's own frames. -/

namespace Sys2Proof.Machine

/-- A frame of another node stands on the line (R159). In SCANNING the bit engine is SILENT and takes no part (R159). -/
def frameOnLine (w : Wave) (s : State) : State := s.setLp (s.lp.receive w)

/-- INBOUND_FRAME (R159, R160). -/
def execInboundFrame (w : Wave) (s : State) : Host.Outcome State Fault Refusal := .next (whenReady s (frameOnLine w))

/-- FRAME_NOT_FOR_PART (R159): the part checks every cell of such a frame too. -/
def execFrameNotForPart (w : Wave) (s : State) : Host.Outcome State Fault Refusal := .next (whenReady s (frameOnLine w))

/-- NOT_A_START_MARK (R154). A dominant that the filter does not show is nothing at all (R152). -/
def execNotAStartMark (m : LineCell) (s : State) : Host.Outcome State Fault Refusal :=
  .next <| whenReady s fun s =>
    if s.lp.engine = .idle ∧ startMarkOk s.lp.cellTime m = false ∧ (s.lp.filter && shortLevel m.dominant) = false then
      s.setLp s.lp.badMark
    else s

/-- LINE_IDLE (R154, R165). -/
def execLineIdle (recessiveNs : Nat) (s : State) : Host.Outcome State Fault Refusal :=
  .next <| whenReady s fun s => s.setLp (s.lp.idleFor recessiveNs)

/-- FRAME_HAND_ON (R160, R161): the oldest complete frame frees its slot and passes through the role check. -/
def execFrameHandOn (s : State) : Host.Outcome State Fault Refusal :=
  .next <| whenReady s fun s =>
    match s.lp.inbound with
    | [] => s
    | r :: rest => if s.canHandOn then handOn r (s.setLp { s.lp with inbound := rest }) else s

/-- FRAME_START (R165, R152). -/
def execFrameStart (s : State) : Host.Outcome State Fault Refusal :=
  .next <| whenReady s fun s => s.setLp s.lp.startFrame

/-- The end of an attempt of the part's own. -/
def attemptEnds (w : Wave) (s : State) : State := s.setLp (s.lp.endAttempt w)

/-- FRAME_DELIVERED (R158, R165). -/
def execFrameDelivered (w : Wave) (s : State) : Host.Outcome State Fault Refusal := .next (whenReady s (attemptEnds w))

/-- ARBITRATION_LOST (R157, R165). -/
def execArbitrationLost (w : Wave) (s : State) : Host.Outcome State Fault Refusal := .next (whenReady s (attemptEnds w))

/-- ERROR_ABORT (R158, R165). -/
def execErrorAbort (w : Wave) (s : State) : Host.Outcome State Fault Refusal := .next (whenReady s (attemptEnds w))

end Sys2Proof.Machine
end

