-- ==== Sys2Proof/Machine/Dispatch.lean ====
section
/-! DEFINITION. exec: one arm for each command, one direct call of its meaning. -/

namespace Sys2Proof.Machine

def exec (i : Instr) (s : State) : Host.Outcome State Fault Refusal :=
  match i with
  | .powerOn => Sys2Proof.Machine.execPowerOn s
  | .resetnAssert left => Sys2Proof.Machine.execResetnAssert left s
  | .resetnRelease => Sys2Proof.Machine.execResetnRelease s
  | .needleUp inactiveUs => Sys2Proof.Machine.execNeedleUp inactiveUs s
  | .holdSeenChange asserted stableUs => Sys2Proof.Machine.execHoldSeenChange asserted stableUs s
  | .stopSilenceExpiry => Sys2Proof.Machine.execStopSilenceExpiry s
  | .resumeSettleEnd => Sys2Proof.Machine.execResumeSettleEnd s
  | .expansionEvent => Sys2Proof.Machine.execExpansionEvent s
  | .programStepComplete step failed => Sys2Proof.Machine.execProgramStepComplete step failed s
  | .eraseComplete residue => Sys2Proof.Machine.execEraseComplete residue s
  | .boundExpiry left => Sys2Proof.Machine.execBoundExpiry left s
  | .progressIntervalEnd => Sys2Proof.Machine.execProgressIntervalEnd s
  | .readComplete => Sys2Proof.Machine.execReadComplete s
  | .inboundFrame wave => Sys2Proof.Machine.execInboundFrame wave s
  | .lineIdle recessiveNs => Sys2Proof.Machine.execLineIdle recessiveNs s
  | .frameHandOn => Sys2Proof.Machine.execFrameHandOn s
  | .frameStart => Sys2Proof.Machine.execFrameStart s
  | .frameDelivered wave => Sys2Proof.Machine.execFrameDelivered wave s
  | .arbitrationLost wave => Sys2Proof.Machine.execArbitrationLost wave s
  | .errorAbort wave => Sys2Proof.Machine.execErrorAbort wave s
  | .loadBuffer src offset data => Sys2Proof.Machine.execLoadBuffer src offset data s
  | .clearBuffer src => Sys2Proof.Machine.execClearBuffer src s
  | .commitPage src slot page => Sys2Proof.Machine.execCommitPage src slot page s
  | .eraseSlot src slot => Sys2Proof.Machine.execEraseSlot src slot s
  | .closeSlot src slot => Sys2Proof.Machine.execCloseSlot src slot s
  | .readLibrary src slot page offset count => Sys2Proof.Machine.execReadLibrary src slot page offset count s
  | .readOutcome src => Sys2Proof.Machine.execReadOutcome src s
  | .enqueue src tag slot length gap mode stitch start groups tackCount tackLength copies => Sys2Proof.Machine.execEnqueue src tag slot length gap mode stitch start groups tackCount tackLength copies s
  | .cancel src tag => Sys2Proof.Machine.execCancel src tag s
  | .readQueue src => Sys2Proof.Machine.execReadQueue src s
  | .readOrder src tag part => Sys2Proof.Machine.execReadOrder src tag part s
  | .takeHead src serial => Sys2Proof.Machine.execTakeHead src serial s
  | .takeFeed src serial => Sys2Proof.Machine.execTakeFeed src serial s
  | .reportMoved src serial => Sys2Proof.Machine.execReportMoved src serial s
  | .start src => Sys2Proof.Machine.execStart src s
  | .stop src => Sys2Proof.Machine.execStop src s
  | .endRun src => Sys2Proof.Machine.execEndRun src s
  | .resume src => Sys2Proof.Machine.execResume src s
  | .abort src => Sys2Proof.Machine.execAbort src s
  | .clearCauses src causes => Sys2Proof.Machine.execClearCauses src causes s
  | .reportStopped src => Sys2Proof.Machine.execReportStopped src s
  | .readStatus src part => Sys2Proof.Machine.execReadStatus src part s
  | .readCounters src first => Sys2Proof.Machine.execReadCounters src first s
  | .clearCounters src => Sys2Proof.Machine.execClearCounters src s
  | .reportBreak src groups => Sys2Proof.Machine.execReportBreak src groups s
  | .reportMended src groups => Sys2Proof.Machine.execReportMended src groups s
  | .park src groups => Sys2Proof.Machine.execPark src groups s
  | .unpark src groups => Sys2Proof.Machine.execUnpark src groups s
  | .backstitch src count => Sys2Proof.Machine.execBackstitch src count s
  | .readHistory src age => Sys2Proof.Machine.execReadHistory src age s
  | .cutQuery src => Sys2Proof.Machine.execCutQuery src s
  | .cutDone src tag copy => Sys2Proof.Machine.execCutDone src tag copy s
  | .reportSplice src web => Sys2Proof.Machine.execReportSplice src web s
  | .setSetting src code value => Sys2Proof.Machine.execSetSetting src code value s
  | .setRole src node role => Sys2Proof.Machine.execSetRole src node role s
  | .writeSetup src => Sys2Proof.Machine.execWriteSetup src s
  | .reloadSetup src => Sys2Proof.Machine.execReloadSetup src s
  | .resetPart src => Sys2Proof.Machine.execResetPart src s
  | .resetPartApply => Sys2Proof.Machine.execResetPartApply s
  | .readSetting src code => Sys2Proof.Machine.execReadSetting src code s
  | .readTable src => Sys2Proof.Machine.execReadTable src s
  | .frameNotForPart wave => Sys2Proof.Machine.execFrameNotForPart wave s
  | .notAStartMark mark => Sys2Proof.Machine.execNotAStartMark mark s
  | .powerOff left => Sys2Proof.Machine.execPowerOff left s

end Sys2Proof.Machine
end

