-- ==== Sys2Proof/Safety.lean ====
section
/-! DEFINITION. What is claimed of every state: the properties that every step keeps, the values after a reset, and when a
request is in its owner's hands. -/

namespace Sys2Proof.Machine

/-- The request in service is the command itself, handed on to its owner and not yet answered (R160). -/
def Serving (s : State) (sv : Service) (c : Instr) : Prop :=
  s.ready = true ∧ s.lp.service = some sv ∧ sv.request = c ∧ sv.phase = .handed

/-- The step found no fault and no refusal and left a state of which P holds. -/
def Leaves (o : Host.Outcome State Fault Refusal) (P : State → Prop) : Prop := ∃ t, o = .next t ∧ P t

/-- The array is in its canonical form. -/
def MemoryCanonical (s : State) : Prop := Memory.wf s.pl.array = true

/-- No group stands in both sets (R122). -/
def GroupsApart (s : State) : Prop := s.gh.broken &&& s.gh.parked = 0

/-- A RESUME is in its settle (R114). -/
def Settling (s : State) : Prop := ∃ sv, s.lp.service = some sv ∧ sv.phase = .settle

/-- The HOLD drive and the stop-silence timer by run state (R98, R106), and the seen level while the part drives (R107). -/
structure RunStateTable (s : State) : Prop where
  timer : s.rc.silence.isSome = true ↔ s.rc.state = .halting
  driven : s.rc.holdDriven = true → s.rc.state = .halting ∨ s.rc.state = .halted
  halting : s.rc.state = .halting → s.rc.holdDriven = true
  halted : s.rc.state = .halted → s.rc.holdDriven = true ∨ Settling s
  settling : Settling s → s.rc.state = .halted ∧ s.rc.holdDriven = false
  seen : s.rc.holdDriven = true → s.rc.holdSeen = true

/-- The serials follow one another, the last one before the counter (R79, R80). -/
def Consecutive (counter : Word32) : List Record → Prop
  | [] => True
  | r :: rest => nextSerial r.serial = ((rest.head?.map Record.serial).getD counter) ∧ Consecutive counter rest

/-- The ring holds at most 16 records (R79), its serials run consecutively (R79), and a REPOSITION record stands at its head alone (R89, R95). -/
structure WindowOrdered (s : State) : Prop where
  bounded : s.sw.ring.length ≤ 16
  consecutive : Consecutive s.sw.counter s.sw.ring
  behind : ∀ r ∈ s.sw.ring.tail, r.kind ≠ .reposition
  waiting : ∀ r ∈ s.sw.waiting, r.kind ≠ .reposition
  filed : ∀ e ∈ s.gh.history, e.kind ≠ .reposition

/-- 0 is never a serial (R80). -/
structure SerialsGiven (s : State) : Prop where
  counter : s.sw.counter ≠ 0
  headNext : s.sw.headNext ≠ 0
  feedNext : s.sw.feedNext ≠ 0
  ring : ∀ r ∈ s.sw.ring, r.serial ≠ 0

/-- A value lies in a range. -/
def within (v lo hi : Nat) : Prop := lo ≤ v ∧ v ≤ hi

/-- Every setting lies in its range of R166. -/
structure SettingsInRange (st : Settings) : Prop where
  nodeNumber : within st.nodeNumber 0 30
  cellTime : within st.cellTime 4 250
  travel : within st.travel 100 3000
  homeLateral : within st.homeLateral 0 st.travel
  xMax : within st.xMax 1 120
  yFwd : within st.yFwd 1 120
  yRev : within st.yRev 0 60
  xJmax : within st.xJmax 1 250
  yJmax : within st.yJmax 1 250
  defStitch : within st.defStitch 10 100
  defTackCount : st.defTackCount = 0 ∨ st.defTackCount = 2 ∨ st.defTackCount = 4 ∨ st.defTackCount = 6
  defTackLength : within st.defTackLength 1 20
  primeDepth : within st.primeDepth 1 16
  leadLimit : within st.leadLimit 1 4
  stopSilence : within st.stopSilence 50 2000
  spliceHalf : within st.spliceHalf 0 500

/-- The role table is one of R170, and a SET ROLE in service comes from its SUPERVISOR (R161, R166). No request is in service
before READY. -/
structure RolesSound (s : State) : Prop where
  table : roleTableOk s.st.working.roles = true
  size : s.st.working.roles.length ≤ 8
  requester : ∀ sv src node role, s.lp.service = some sv → sv.request = .setRole src node role →
    roleOfNode s.st.working.roles sv.node.toNat = some .supervisor
  scanning : s.st.startUp ≠ .ready → s.lp.service = none

/-- The queue, the window, the history, the splice zones, the inbound buffer, the general places, the page buffer and the role
table are no longer than they may be (R38, R79, R127, R147, R160, R163, R19, R170); the loaded offsets stand in rising order
below 256. -/
structure WithinSizes (s : State) : Prop where
  queue : s.queue.length ≤ 8
  ring : s.sw.ring.length ≤ 16
  history : s.gh.history.length ≤ 64
  zones : s.wt.zones.length ≤ 4
  inbound : s.lp.inbound.length ≤ 4
  general : s.lp.general.length + s.lp.service.isSome.toNat ≤ 5
  loaded : risingCells s.pl.pageBuffer = true ∧ ∀ c ∈ s.pl.pageBuffer, c.1 < 256
  pageBuffer : s.pl.pageBuffer.length ≤ 256
  roles : s.st.working.roles.length ≤ 8

/-- No queued order needs a reverse feed that Yrev does not allow (R108). -/
def ReverseFeedServed (s : State) : Prop :=
  s.st.working.yRev ≠ 0 ∨ ∀ o ∈ s.queue, ∀ info, tableEntry s.pl.table o.slot = some (.closed info) → info.reverse = false

/-- A repeat can begin: always in TRUNCATE mode, and in WHOLE mode where the repeat with its tack stays within the panel (R68,
R69). -/
def RepeatFits (e : CopyEnv) (c : Context) : Prop :=
  e.order.mode = .truncate ∨
    c.panelY + e.info.yReach + (if 0 < c.tackCount then min c.tackLength (min e.st.yFwd e.st.yRev) else 0 : Nat) ≤ e.order.length

/-- The context in which a repeat begins (R68, R69). -/
def repeatBegun (e : CopyEnv) (c : Context) : Context :=
  { c with phase := .body, intended := e.order.start, mask := BitVec.allOnes 32, segment := 0, step := 0, steps := 0 }

/-- The context stands in BODY before a segment: none has been begun, or the one before has all its records. -/
def BeforeSegment (c : Context) : Prop := c.phase = .body ∧ c.tack = none ∧ c.steps ≤ c.step

/-- The lead-in has all its records, or makes none (R67). -/
def LeadInDone (c : Context) : Prop := c.phase = .leadIn ∧ c.tack = none ∧ c.steps ≤ c.step

/-- Without a record, the expander comes from a context and the segments in hand to another: the first repeat begins after the
lead-in, a further one at END (R68, R69), GROUPS sets the mask (R66), and a JUMP of no length ends the seam (R63, R65). -/
inductive Passes (e : CopyEnv) : Context → List (Nat × Segment) → Context → List (Nat × Segment) → Prop where
  | stands (c : Context) (hand : List (Nat × Segment)) : Passes e c hand c hand
  | firstRepeat {c d : Context} {hand rest : List (Nat × Segment)} : LeadInDone c → RepeatFits e c →
      Passes e (repeatBegun e c) hand d rest → Passes e c hand d rest
  | nextRepeat {c d : Context} {g : Segment} {hand rest : List (Nat × Segment)} : BeforeSegment c →
      g.op = some .endOfBody → RepeatFits e c → Passes e (repeatBegun e c) hand d rest →
      Passes e c ((c.position, g) :: hand) d rest
  | groups {c d : Context} {g : Segment} {hand rest : List (Nat × Segment)} : BeforeSegment c → g.op = some .groups →
      Passes e { c with mask := segmentMask g, segment := c.position + 1, step := 0, steps := 0 } hand d rest →
      Passes e c ((c.position, g) :: hand) d rest
  | noMove {c d : Context} {g : Segment} {hand rest : List (Nat × Segment)} : BeforeSegment c → g.op = some .jump →
      g.a = 0 → g.b = 0 → c.seam = false ∨ c.tackCount = 0 →
      Passes e { c with seam := false, segment := c.position + 1, step := 0, steps := 0 } hand d rest →
      Passes e c ((c.position, g) :: hand) d rest

/-- The first step of a RUN or of a JUMP that moves, reached at a context, ends beyond the panel (R69). -/
def CutAtStart (e : CopyEnv) (c : Context) (g : Segment) : Prop :=
  e.order.mode = .truncate ∧
    ((g.op = some .run ∧ (e.order.length : Int) < c.panelY + rdiv g.b (runSteps e.st c.stitch g)) ∨
      (g.op = some .jump ∧ (g.a ≠ 0 ∨ g.b ≠ 0) ∧ (c.seam = false ∨ c.tackCount = 0) ∧
        (e.order.length : Int) < c.panelY + rdiv g.b (jumpSteps e.st g.a g.b)))

/-- The body has ended, or ends, with the intended lateral, panel y and seam of a context: in END_TACK before or after its group,
where no repeat fits, at END or before the first, and at a cut step (R68 to R70). -/
inductive BodyEnds (e : CopyEnv) (c : Context) (hand : List (Nat × Segment)) : Context → Prop where
  | endTack : c.phase = .endTack → c.tack = none → BodyEnds e c hand c
  | noRepeat : LeadInDone c → ¬ RepeatFits e c → BodyEnds e c hand c
  | atEnd {d : Context} {g : Segment} {rest : List (Nat × Segment)} : Passes e c hand d ((d.position, g) :: rest) →
      BeforeSegment d → g.op = some .endOfBody → ¬ RepeatFits e d → BodyEnds e c hand d
  | cutAtStart {d : Context} {g : Segment} {rest : List (Nat × Segment)} : Passes e c hand d ((d.position, g) :: rest) →
      BeforeSegment d → CutAtStart e d g → BodyEnds e c hand d
  | cutWithin {g : Segment} {rest : List (Nat × Segment)} : hand = (c.segment, g) :: rest → c.phase = .body →
      c.tack = none → c.step < c.steps → e.order.mode = .truncate →
      (e.order.length : Int) < c.baseY + rdiv (g.b * (c.step + 1 : Nat)) c.steps → BodyEnds e c hand c

/-- A read of start-up is in flight, the slots before have been classified, and the other blocks stand as start-up has them
(R174). -/
structure ScanningAt (s : State) (found : List SlotEntry) (r : ScanRead) : Prop where
  powered : s.powered = true
  startUp : s.st.startUp = .scanning found
  port : s.pl.port = { Port.quiet with inFlight := some (.scan r) }
  op : s.pl.op = none
  expander : s.sx.state = .idle
  run : s.rc.state = .standby

/-- The next read of start-up is in flight, and nothing else has changed. -/
def ScanGoesOn (s t : State) (r : ScanRead) : Prop := t = s.setPort { Port.quiet with inFlight := some (.scan r) }

/-- The slot has been classified: the next slot's first page is read, or after slot 31 the table is filled and READY reached with
its announcement (R15, R174). -/
def SlotClassified (s t : State) (found : List SlotEntry) (e : SlotEntry) : Prop :=
  (found.length < 31 → t = (s.setSt { s.st with startUp := .scanning (found ++ [e]) }).setPort
    { Port.quiet with inFlight := some (.scan (.page (found.length + 1) 0)) }) ∧
  (found.length = 31 → t.st = { s.st with startUp := .ready } ∧ t.pl.table = found ++ [e] ∧ t.pl.port = .quiet ∧
    t.pl.array = s.pl.array ∧ t.lp.engine = .busy ∧
    t.lp.statePlace.map OutFrame.params = some (0 :: octets16 s.rc.causes ++ [boolOctet s.rc.endRequested] ++
      octets32 s.sw.oldest ++ [0, 0xFF]))

/-- The values the chapters give after every reset (R37, R38, R54, R55, R77, R80, R97, R98, R112, R115, R117, R122, R127,
R139, R141, R142, R147, R160, R163). -/
structure ResetValues (t : State) : Prop where
  controller : t.pl.op = none ∧ t.pl.pageBuffer = [] ∧ t.pl.outcome = none ∧ t.pl.failFlag = false
  queue : t.queue = []
  context : t.sx.context.tag = none ∧ t.sx.context.copy = none ∧ t.sx.context.phase = .done ∧ t.sx.context.web = 0 ∧
    t.sx.context.tack = none ∧ t.sx.context.cutMark = none
  expander : t.sx.state = .idle ∧ t.sx.checkpoint = none
  window : t.sw.ring = [] ∧ t.sw.waiting = [] ∧ t.sw.counter = 1 ∧ t.sw.headNext = 1 ∧ t.sw.feedNext = 1
  run : t.rc.state = .standby ∧ t.rc.causes = 0 ∧ t.rc.endRequested = false ∧ t.rc.holdDriven = false ∧
    t.rc.holdSeen = false ∧ t.rc.silence = none ∧ t.rc.openCopy = none ∧ t.rc.counters = .zero
  groups : t.gh.broken = 0 ∧ t.gh.parked = 0 ∧ t.gh.history = [] ∧ t.gh.rewindable = 0
  web : t.wt.web = 0 ∧ t.wt.newest = none ∧ t.wt.cuts = [] ∧ t.wt.reservations = [] ∧ t.wt.zones = []
  line : t.lp.inbound = [] ∧ t.lp.service = none ∧ t.lp.general = [] ∧ t.lp.counters = .zero

end Sys2Proof.Machine
end

