-- ==== Sys2Proof/Certificates/Slice0/Obligations.lean ====
section
/-! DEFINITION. The statements for the provers. `Serving s sv c` says that the request in service is the command `c`;
`Leaves o P` says that the step `o` is a next state of which P holds. -/

open Sys2Proof Sys2Proof.Machine

/-! ### Steps and the queue of commands -/

/-- A step takes the front command and executes it on the rest; with no command waiting the part idles, which is the model's
choice (log 3). -/
def Obligations.StepTakesFrontCommand : Prop :=
  (∀ (c : Instr) (rest : List Instr) (s : State), s.pending = c :: rest → step s = exec c (s.setPending rest)) ∧
    ∀ s : State, s.pending = [] → step s = .next s

/-- Every command leaves a next state, and leaves the queue of commands to the step. -/
def Obligations.CommandsLeaveQueue : Prop :=
  ∀ (c : Instr) (s : State), Leaves (exec c s) fun t => t.pending = s.pending

/-! ### Frames -/

/-- Reading back the frame of a request gives the request, with every operand at every value its octets carry. -/
def Obligations.RequestFramesRoundTrip : Prop :=
  ∀ (c : Instr) (r : RequestFrame), encodeRequest c = some r → decodeRequest r = some c

/-- A request of 3 to 28 octets, driven on an idle line as R155 gives, is received whole into a free inbound slot, every octet
from the second on acknowledged, whatever the free bit of octet 2. That a frame is one step (log 7), that its reception ends the
10 T wait (log 20) and that the part's output is held in lineOut (log 21) are the model's. -/
def Obligations.DrivenRequestIsReceived : Prop :=
  ∀ (s : State) (priority : BitVec 3) (src : NodeId) (free : BitVec 1) (code : Byte) (params : List Byte),
    s.ready = true → s.lp.engine = .idle → s.lp.node ≤ 30 → 4 ≤ s.lp.cellTime → (s.lp.filter = true → 8 ≤ s.lp.cellTime) →
    src ≠ 31#5 → params.length ≤ 25 → s.lp.inbound.length < 4 →
    Leaves
      (exec (.inboundFrame (driveFrame s.lp.cellTime
        ((priority ++ src, false) :: (BitVec.ofNat 5 s.lp.node ++ free ++ 1#2, false) ::
          (code :: params).map fun x => (x, false)))) s)
      fun t => t = s.setLp { s.lp with
        engine := .busy
        ownWait := false
        inbound := s.lp.inbound ++ [⟨src, code, params⟩]
        lineOut := ⟨false :: List.replicate (params.length + 2) true, false⟩ }

/-- A frame to another node or to all, driven without error and acknowledged by others in whichever octets, is acknowledged in no
octet by the part and leaves inbound slots and counters. That its reception ends the 10 T wait (log 20) and that the part's output
is held in lineOut (log 21) are the model's. -/
def Obligations.FrameForAnotherNodePasses : Prop :=
  ∀ (s : State) (octet1 : Byte) (dest : NodeId) (free : BitVec 1) (kind : BitVec 2) (acknowledged : Bool)
    (rest : List (Byte × Bool)),
    s.ready = true → s.lp.engine = .idle → 4 ≤ s.lp.cellTime → (s.lp.filter = true → 8 ≤ s.lp.cellTime) →
    dest.toNat ≠ s.lp.node ∨ dest = 31#5 →
    Leaves
      (exec (.frameNotForPart (driveFrame s.lp.cellTime
        ((octet1, false) :: (dest ++ free ++ kind, acknowledged) :: rest))) s)
      fun t => t = s.setLp { s.lp with
        engine := .busy
        ownWait := false
        lineOut := ⟨List.replicate (rest.length + 2) false, false⟩ }

/-- A frame of the part's own that comes to its end as driven, every octet from the second on acknowledged or, in a broadcast,
none, is delivered. -/
def Obligations.UndisturbedFrameIsDelivered : Prop :=
  ∀ (cellTime : Nat) (filter broadcast : Bool) (octet1 : Byte) (rest : List Byte),
    4 ≤ cellTime → (filter = true → 8 ≤ cellTime) →
    judgeAttempt cellTime 0 (sentCells broadcast true (octet1 :: rest))
      (seenLine filter (driveFrame cellTime ((octet1, false) :: rest.map fun x => (x, !broadcast)))).tail = .delivered

/-- How a cell is read: its dominant time and the next edge decide; in the final cell of a frame an early edge alone is an error.
With the filter off the line is seen as it stands, and with it on so is a line of longer levels. That with it on a level below 2 µs
is merged into those around it, and the edges of the merged cell, are the model's choice of how R152's level is ignored (log 35). -/
def Obligations.CellReading : Prop :=
  (∀ (cellTime dominant next : Nat), 4 ≤ cellTime → 85 * (10 * cellTime) ≤ next → next ≤ 125 * (10 * cellTime) →
    (12 * (10 * cellTime) ≤ dominant → dominant ≤ 38 * (10 * cellTime) →
      readCell cellTime ⟨dominant, some next⟩ false = some true) ∧
    (50 * (10 * cellTime) ≤ dominant → dominant ≤ 80 * (10 * cellTime) →
      readCell cellTime ⟨dominant, some next⟩ false = some false) ∧
    (dominant < 12 * (10 * cellTime) ∨ 38 * (10 * cellTime) < dominant ∧ dominant < 50 * (10 * cellTime) ∨
        80 * (10 * cellTime) < dominant →
      readCell cellTime ⟨dominant, some next⟩ false = none)) ∧
  (∀ (cellTime dominant next : Nat), next < 85 * (10 * cellTime) ∨ 125 * (10 * cellTime) < next →
    readCell cellTime ⟨dominant, some next⟩ false = none) ∧
  (∀ (cellTime dominant next : Nat), 4 ≤ cellTime →
    readCell cellTime ⟨dominant, none⟩ true = readCell cellTime ⟨dominant, some (100 * (10 * cellTime))⟩ false ∧
    (85 * (10 * cellTime) ≤ next →
      readCell cellTime ⟨dominant, some next⟩ true = readCell cellTime ⟨dominant, none⟩ true) ∧
    (next < 85 * (10 * cellTime) → readCell cellTime ⟨dominant, some next⟩ true = none)) ∧
  (∀ w : Wave, seenLine false w = w.mark :: w.cells) ∧
  (∀ w : Wave, (∀ c ∈ w.mark :: w.cells, 2000 ≤ c.dominant ∧ ∀ n, c.next = some n → 2000 ≤ n - c.dominant) →
    seenLine true w = w.mark :: w.cells) ∧
  (∀ (m : LineCell) (d d' e : Nat) (n : Option Nat) (rest : List LineCell), d < 2000 → 2000 ≤ m.dominant →
    m.next = some e → 2000 ≤ e - m.dominant →
    seenLine true ⟨m, ⟨d, some d'⟩ :: rest⟩ = seenLine true ⟨⟨m.dominant, some (e + d')⟩, rest⟩ ∧
    seenLine true ⟨⟨d, n⟩, m :: rest⟩ = seenLine true ⟨m, rest⟩) ∧
  ∀ (m : LineCell) (d e : Nat) (n : Option Nat) (rest : List LineCell), 2000 ≤ m.dominant → m.next = some e →
    m.dominant < e → e - m.dominant < 2000 →
    seenLine true ⟨m, ⟨d, n⟩ :: rest⟩ = seenLine true ⟨⟨e + d, n.map fun u => e + u⟩, rest⟩

/-! ### What every step keeps -/

/-- Right after power-on, with the array as shipped that log 1 chooses, every one of the properties below holds. -/
def Obligations.InvariantsAtReset : Prop :=
  MemoryCanonical State.reset ∧ GroupsApart State.reset ∧ RunStateTable State.reset ∧ WindowOrdered State.reset ∧
    SerialsGiven State.reset ∧ SettingsInRange State.reset.st.working ∧ RolesSound State.reset ∧ WithinSizes State.reset ∧
    ResetValues State.reset

/-- The array, a list of the bytes that are not blank, keeps its canonical form, which is the model's own. -/
def Obligations.MemoryStaysCanonical : Prop :=
  ∀ s t : State, MemoryCanonical s → step s = .next t → MemoryCanonical t

/-- No group comes to stand in both sets. -/
def Obligations.GroupSetsStayApart : Prop :=
  ∀ s t : State, GroupsApart s → step s = .next t → GroupsApart t

/-- HOLD and the stop-silence timer stay as the run state gives them. -/
def Obligations.RunStateTableIsKept : Prop :=
  ∀ s t : State, RunStateTable s → step s = .next t → RunStateTable t

/-- The window holds at most 16 records, its serials stay consecutive, a REPOSITION record stands at its head alone, and 0 is
never a serial. -/
def Obligations.WindowStaysOrdered : Prop :=
  ∀ s t : State, WindowOrdered s → SerialsGiven s → step s = .next t → WindowOrdered t ∧ SerialsGiven t

/-- Every working setting stays in its range; the role table stays one of at most 8 entries with no node twice, no single role
twice and exactly one SUPERVISOR. -/
def Obligations.SettingsStayInRange : Prop :=
  (∀ s t : State, SettingsInRange s.st.working → step s = .next t → SettingsInRange t.st.working) ∧
    ∀ s t : State, RolesSound s → step s = .next t → RolesSound t

/-- The queue, the window, the history, the splice zones, the inbound buffer, the general places, the page buffer and the role
table do not grow beyond their sizes. -/
def Obligations.ListsStayWithinSizes : Prop :=
  ∀ s t : State, WithinSizes s → step s = .next t → WithinSizes t

/-! ### Arithmetic -/

/-- rdiv: the quotient nearest to p / n, with halves away from zero and mirrored for negative p. -/
def Obligations.RoundedDivision : Prop :=
  ∀ (p : Int) (n : Nat), 1 ≤ n →
    (0 ≤ p → rdiv p n = (2 * p + n) / (2 * n)) ∧ rdiv (-p) n = -rdiv p n ∧ 2 * (n * rdiv p n - p).natAbs ≤ n

/-- Every step of a RUN segment is within Xmax laterally and within Yfwd and Yrev in feed, and the steps sum exactly to the
segment: the last one ends at base + dx and base + dy. -/
def Obligations.SewStepsWithinLimits : Prop :=
  ∀ (st : Settings) (stitch : Nat) (g : Segment) (base : Int) (k : Nat), 1 ≤ st.xMax → 1 ≤ st.yFwd →
    (g.b < 0 → 1 ≤ st.yRev) →
    let n := runSteps st stitch g
    let lateral (i : Nat) : Int := clampInt (base + rdiv (g.a * i) n) 0 st.travel
    let dy (i : Nat) : Int := rdiv (g.b * i) n - rdiv (g.b * (i - 1 : Nat)) n
    (1 ≤ k → k ≤ n → (lateral k - lateral (k - 1)).natAbs ≤ st.xMax ∧ -(st.yRev : Int) ≤ dy k ∧ dy k ≤ st.yFwd) ∧
      rdiv (g.a * n) n = g.a ∧ rdiv (g.b * n) n = g.b

/-- A record the expander makes has the intended lateral clamped to travel, and carries CLIPPED exactly when the intended
lateral lies outside. -/
def Obligations.RecordsAreClamped : Prop :=
  ∀ (e : CopyEnv) (c : Context) (hand : List (Nat × Segment)) (m : Making) (first last closing : Bool),
    e.plan c hand = .make m first last closing →
    0 ≤ m.lateral ∧ m.lateral ≤ e.st.travel ∧ m.lateral = clampInt m.context.intended 0 e.st.travel ∧
      (m.clipped = true ↔ (m.context.intended < 0 ∨ (e.st.travel : Int) < m.context.intended))

/-! ### The array -/

/-- Programming a byte leaves a 1 bit exactly where the byte and the value both have one; erasing a unit makes its bytes
blank; neither reaches another byte. -/
def Obligations.ArrayProgramsAndErases : Prop :=
  (∀ (mem : List Host.Cell) (a x : Nat) (w : Byte),
    arrayByte (arrayProgram mem a w) x = if x = a then arrayByte mem a &&& w else arrayByte mem x) ∧
  ∀ (mem : List Host.Cell) (base size x : Nat),
    arrayByte (arrayErase mem base size) x = if base ≤ x ∧ x < base + size then 0xFF else arrayByte mem x

/-! ### Supply and resets -/

/-- Power-on with RESETN released, a release of RESETN under supply, and a due RESET PART reset every block and keep the
array; the first two begin start-up with the setup page's read, the third announces STATE and keeps the settings, the slot
table and the start-up state. RESETN asserted and the loss of supply reset every block at once; the array keeps what an operation
in hand had done, and with none in hand it stays as it was: the VOID mark that opens an ERASE SLOT stands, and page data have been
programmed in increasing offset order, each byte whole before the next (R17, R24). That a part without supply is held is the
model's form (log 23), and how far a cut step had come is an operand (log 8). -/
def Obligations.ResetsGiveResetValues : Prop :=
  (∀ s : State, s.pins.resetnLow = false → Leaves (exec .powerOn s) fun t =>
    ResetValues t ∧ t.pl.array = s.pl.array ∧ t.st.startUp = .scanning [] ∧ t.lp.engine = .silent ∧
      t.pl.port = { Port.quiet with inFlight := some (.scan .setup) }) ∧
  (∀ s : State, s.pins.resetnLow = true → s.pins.supply = true → Leaves (exec .resetnRelease s) fun t =>
    ResetValues t ∧ t.pl.array = s.pl.array ∧ t.st.startUp = .scanning [] ∧ t.lp.engine = .silent ∧
      t.pl.port = { Port.quiet with inFlight := some (.scan .setup) } ∧ t.pins.resetnLow = false) ∧
  (∀ s : State, s.ready = true → s.lp.resetPart = .due → Leaves (exec .resetPartApply s) fun t =>
    ResetValues t ∧ t.pl.array = s.pl.array ∧ t.pl.table = s.pl.table ∧ t.st = s.st ∧ t.lp.engine = .busy ∧
      t.wt.lateral = s.st.working.homeLateral ∧ t.sx.context.intended = s.st.working.homeLateral ∧
      t.sw.leadLimit = s.st.working.leadLimit ∧
      (t.lp.statePlace.map OutFrame.params) = some [0, 0, 0, 0, 0, 0, 0, 1, 0, 0xFF]) ∧
  ∀ (s : State) (left : List Host.Cell),
    (Leaves (exec (.resetnAssert left) s) fun t =>
      ResetValues t ∧ t.pins = ⟨s.pins.supply, true⟩ ∧ t.lp.engine = .silent ∧ t.pl.port = .quiet ∧
        t.pl.array = s.pl.cutShort left) ∧
    (Leaves (exec (.powerOff left) s) fun t =>
      ResetValues t ∧ t.pins = ⟨false, s.pins.resetnLow⟩ ∧ t.pl.array = s.pl.cutShort left) ∧
    (s.pl.op = none → s.pl.cutShort left = s.pl.array) ∧
    (∀ slot, s.pl.op.map (fun o => (o.work, o.point)) = some (.erase slot, .stepping .voidMarkFirst) →
      arrayByte (s.pl.cutShort left) (markAddress slot) = 0x00) ∧
    ∀ slot page before (d : Host.Cell) between c behind,
      s.pl.op.map (fun o => (o.work, o.point)) =
        some (.commit slot page (before ++ d :: between ++ c :: behind), .stepping .pageData) →
      risingCells (before ++ d :: between ++ c :: behind) = true →
      arrayByte (s.pl.cutShort left) (pageBase slot page + c.1) ≠ arrayByte s.pl.array (pageBase slot page + c.1) →
      arrayByte (s.pl.cutShort left) (pageBase slot page + d.1) =
        arrayByte s.pl.array (pageBase slot page + d.1) &&& d.2

/-! ### Needle-up, HOLD and the timers -/

/-- R101: in STANDBY a needle-up counts an idle cycle and does nothing else; in PRIMING it raises MOTION, which enters HALTING;
in HALTED MOTION joins the cause set. Nothing else changes, and no record retires. An active edge after less than 2 ms of
inactive input changes nothing (R100). The entry drives HOLD, starts the timer and announces STATE (R99); that the seen level is
asserted with the drive is log 16's reading of R107. -/
def Obligations.NeedleUpOutsideSewing : Prop :=
  ∀ (s : State) (inactiveUs : Nat),
    (inactiveUs < 2000 → exec (.needleUp inactiveUs) s = .next s) ∧
    (s.ready = true → 2000 ≤ inactiveUs → s.rc.state = .standby → exec (.needleUp inactiveUs) s =
      .next (s.setRc { s.rc with counters := { s.rc.counters with idleCycles := saturatingSucc s.rc.counters.idleCycles } })) ∧
    (s.ready = true → 2000 ≤ inactiveUs → s.rc.state = .priming → Leaves (exec (.needleUp inactiveUs) s) fun t =>
      t.rc = { s.rc with
        state := .halting
        causes := s.rc.causes ||| 0x0100
        holdDriven := true
        holdSeen := true
        silence := some s.st.working.stopSilence } ∧ t = (s.setRc t.rc).setLp t.lp ∧
      (t.lp.statePlace.map OutFrame.params) =
        some (3 :: octets16 (s.rc.causes ||| 0x0100) ++ [boolOctet s.rc.endRequested] ++ octets32 s.sw.oldest ++ [3, 8])) ∧
    (s.ready = true → 2000 ≤ inactiveUs → s.rc.state = .halted → exec (.needleUp inactiveUs) s =
      .next (s.setRc { s.rc with causes := s.rc.causes ||| 0x0100 }))

/-- A needle-up in RUN or HALTING retires the oldest SEW, TACK or JUMP record that both drives have taken: window, positions,
splice zones, history, barrier, checkpoint, counters, the order's accumulators and the note move as R91 gives, and the first REPLAY
record that waits behind a full window joins it; settings, group sets and causes stay. In HALTING the stop-silence timer restarts. A
retirement in RUN that leaves the window empty with the expander holding for want of an order, or with END_REQUESTED, completes the
run; an expander that held for a full window goes on where its next record can be made. -/
def Obligations.NeedleUpRetiresOldest : Prop :=
  ∀ (s : State) (inactiveUs : Nat) (r : Record) (rest : List Record), s.ready = true → 2000 ≤ inactiveUs →
    (s.rc.state = .run ∨ s.rc.state = .halting) → s.sw.ring = r :: rest → r.kind ≠ .reposition →
    r.takenHead = true → r.takenFeed = true →
    Leaves (exec (.needleUp inactiveUs) s) fun t =>
      (s.sw.waiting = [] → t.sw = { s.sw with ring := rest }) ∧
      (∀ x xs, s.sw.waiting = x :: xs → s.sw.ring.length = 16 → t.sw = { s.sw with
        ring := rest ++ [{ x with serial := s.sw.counter }]
        waiting := xs
        counter := nextSerial s.sw.counter }) ∧
      t.wt.web = s.wt.web + BitVec.ofInt 32 r.dy ∧ t.wt.lateral = r.lateral ∧ t.wt.newest = some (r.tag, r.copy) ∧
      (r.dy ≤ 0 → t.wt.zones = s.wt.zones) ∧
      (0 < r.dy → t.wt.zones = s.wt.zones.filter fun z => decide (0 ≤ (z.last - (s.wt.web + BitVec.ofInt 32 r.dy)).toInt)) ∧
      (let entry : HistoryEntry :=
        ⟨r.serial, r.kind, r.dx, r.dy, r.lateral, r.web, r.effective.getD 0, r.tag, r.copy, r.flags⟩
       (s.gh.history.length < 64 → t.gh.history = s.gh.history ++ [entry]) ∧
       (s.gh.history.length = 64 → t.gh.history = s.gh.history.drop 1 ++ [entry])) ∧
      (r.flags.last = true → t.gh.rewindable = 0) ∧
      (r.flags.last = false → r.flags.first = true → t.gh.rewindable = 1) ∧
      (r.flags.last = false → r.flags.first = false → t.gh.rewindable = min 64 (s.gh.rewindable + 1)) ∧
      t.gh.broken = s.gh.broken ∧ t.gh.parked = s.gh.parked ∧
      t.sx.checkpoint = (if r.context.isSome then r.context else s.sx.checkpoint) ∧
      t.rc.counters.stitches = saturatingSucc s.rc.counters.stitches ∧
      t.rc.counters.clipped = (if r.flags.clipped then saturatingSucc s.rc.counters.clipped else s.rc.counters.clipped) ∧
      t.rc.counters.skipped = (if r.flags.skipped then saturatingSucc s.rc.counters.skipped else s.rc.counters.skipped) ∧
      (r.flags.last = false → t.rc.openCopy = some (r.tag, r.copy) ∧ t.lp.general = s.lp.general ∧
        t.wt.cuts = s.wt.cuts ∧ t.wt.reservations = s.wt.reservations ∧
        t.queue = s.queue.map fun o => if o.tag == r.tag then { o with
          clipped := if r.flags.clipped then saturatingSucc o.clipped else o.clipped
          skipped := if r.flags.skipped then saturatingSucc o.skipped else o.skipped } else o) ∧
      (s.rc.state = .halting → t.rc.state = .halting ∧ t.rc.silence = some s.st.working.stopSilence) ∧
      (s.rc.state = .run → rest ≠ [] → t.rc.state = .run ∧ t.rc.silence = s.rc.silence) ∧
      (s.rc.state = .run → rest = [] → s.sw.waiting = [] →
        s.sx.state = .holding .queueEmpty ∨ s.sx.state = .holding .endRequested →
        t.rc.state = .standby ∧ t.sx.state = .idle ∧ (t.lp.statePlace.map OutFrame.params) =
          some (0 :: octets16 s.rc.causes ++ [boolOctet s.rc.endRequested] ++ octets32 s.sw.counter ++ [7, 0xFF])) ∧
      (s.sx.state = .holding .windowFull → s.sw.waiting = [] → rest.length < 16 →
        ∀ m first last closing, t.plan = .make m first last closing →
        (closing = true → t.wt.cuts.length + t.wt.reservations.length < 8) → t.sx.state = .expanding) ∧
      t.rc.causes = s.rc.causes ∧ t.st = s.st ∧ t.pins = s.pins ∧ t.pl.array = s.pl.array

/-- The retirement of a LAST record, whatever other flags it carries, completes its copy: the reservation becomes a cut list entry
with the copy's counts, the order counts the copy or leaves the queue, the pending list is applied to the next copy, the other
orders and reservations stay, the note is cleared, and PANEL_DONE takes a free general place or is dropped and counted. -/
def Obligations.LastRetirementCompletesCopy : Prop :=
  ∀ (s : State) (inactiveUs : Nat) (r : Record) (rest : List Record) (o : Order) (res : Reservation),
    s.ready = true → 2000 ≤ inactiveUs → (s.rc.state = .run ∨ s.rc.state = .halting) → s.sw.ring = r :: rest →
    r.kind ≠ .reposition → r.takenHead = true → r.takenFeed = true → r.flags.last = true →
    findOrder s.queue r.tag = some o → (s.wt.reservations.find? fun x => x.serial == r.serial) = some res →
    let clipped := if r.flags.clipped then saturatingSucc o.clipped else o.clipped
    let skipped := if r.flags.skipped then saturatingSucc o.skipped else o.skipped
    Leaves (exec (.needleUp inactiveUs) s) fun t =>
      t.wt.cuts = s.wt.cuts ++ [⟨res.tag, res.copy, res.cutMark, clipped, skipped, o.rewinds, o.spliceLate⟩] ∧
      t.wt.reservations = (s.wt.reservations.filter fun x => x.serial != r.serial) ∧ t.rc.openCopy = none ∧
      t.rc.counters.completed = saturatingSucc s.rc.counters.completed ∧
      (o.copyLimit ≤ o.copiesEnded + 1 → t.queue = s.queue.filter fun x => x.tag != r.tag) ∧
      (o.copiesEnded + 1 < o.copyLimit → t.queue = s.queue.map fun x => if x.tag == r.tag then { x with
        copiesEnded := x.copiesEnded + 1
        clipped := 0
        skipped := 0
        rewinds := 0
        spliceLate := x.pendingLate.contains (x.copiesEnded + 2)
        pendingLate := x.pendingLate.filter fun c => c != x.copiesEnded + 2 } else x) ∧
      (s.lp.placeFree = true → t.lp.general = s.lp.general ++ [⟨31#5, .announce, 0x81,
        octets16 r.tag ++ octet r.copy ++ [0] ++ octet (o.copyLimit - (o.copiesEnded + 1)) ++ octets32 res.cutMark ++
          octets16 clipped ++ octets16 skipped ++ octets16 o.rewinds ++ [boolOctet o.spliceLate], 2, 0, .none⟩] ∧
        t.lp.counters = s.lp.counters) ∧
      (s.lp.placeFree = false → t.lp.general = s.lp.general ∧
        t.lp.counters = { s.lp.counters with dropped := saturatingSucc s.lp.counters.dropped })

/-- A needle-up in RUN that finds the oldest record not taken by both drives counts a late take and enters HALTING with
LATE_TAKE; one that finds the window empty enters HALTING with CUT_BACKLOG while the expander holds with CUT_RESERVE_FULL,
and with STARVED otherwise. The window stays. That the seen level of HOLD is asserted with the drive is log 16's reading of R107.
In HALTING a needle-up that finds nothing to retire restarts the timer and counts a coast, and no cause is raised. -/
def Obligations.NeedleUpFindingNothingHalts : Prop :=
  (∀ (s : State) (inactiveUs : Nat), s.ready = true → 2000 ≤ inactiveUs → s.rc.state = .run →
    (∀ r rest, s.sw.ring = r :: rest → (r.kind = .reposition ∨ r.takenHead = false ∨ r.takenFeed = false) →
      Leaves (exec (.needleUp inactiveUs) s) fun t =>
        t.rc = { s.rc with
          state := .halting
          causes := s.rc.causes ||| 0x0002
          holdDriven := true
          holdSeen := true
          silence := some s.st.working.stopSilence
          counters := { s.rc.counters with lateTakes := saturatingSucc s.rc.counters.lateTakes } } ∧
        t = (s.setRc t.rc).setLp t.lp) ∧
    (s.sw.ring = [] → Leaves (exec (.needleUp inactiveUs) s) fun t =>
      t.rc = { s.rc with
        state := .halting
        holdDriven := true
        holdSeen := true
        silence := some s.st.working.stopSilence
        causes := s.rc.causes ||| (if s.sx.state = .holding .cutReserveFull then 0x0008 else 0x0004) } ∧
      t = (s.setRc t.rc).setLp t.lp)) ∧
  ∀ (s : State) (inactiveUs : Nat), s.ready = true → 2000 ≤ inactiveUs → s.rc.state = .halting →
    (∀ r rest, s.sw.ring = r :: rest → r.kind = .reposition ∨ r.takenHead = false ∨ r.takenFeed = false) →
    exec (.needleUp inactiveUs) s = .next (s.setRc { s.rc with
      silence := some s.st.working.stopSilence
      counters := { s.rc.counters with coasts := saturatingSucc s.rc.counters.coasts } })

/-- HOLD seen asserted for 10 µs in PRIMING or RUN enters HALTING with HOLD_EXTERNAL; in STANDBY only the seen level
follows; while the part drives HOLD nothing follows (log 16). -/
def Obligations.HoldSeenAssertedHalts : Prop :=
  ∀ (s : State) (stableUs : Nat), s.ready = true → 10 ≤ stableUs →
    ((s.rc.state = .priming ∨ s.rc.state = .run) → s.rc.holdDriven = false → s.rc.holdSeen = false →
      Leaves (exec (.holdSeenChange true stableUs) s) fun t =>
        t.rc = { s.rc with
          state := .halting
          causes := s.rc.causes ||| 0x0040
          holdDriven := true
          holdSeen := true
          silence := some s.st.working.stopSilence } ∧ t = (s.setRc t.rc).setLp t.lp) ∧
    (s.rc.state = .standby → s.rc.holdDriven = false → ∀ asserted : Bool,
      exec (.holdSeenChange asserted stableUs) s = .next (s.setRc { s.rc with holdSeen := asserted })) ∧
    (s.rc.holdDriven = true → ∀ asserted : Bool, exec (.holdSeenChange asserted stableUs) s = .next s)

/-- The end of HALTING: the timer's expiry enters HALTED with reason SILENCE; REPORT STOPPED enters it with reason STOPPED and
is answered OK. HOLD stays as it is, and the timer stops. -/
def Obligations.HaltingEndsInHalted : Prop :=
  (∀ s : State, s.ready = true → s.rc.state = .halting → s.rc.silence.isSome = true →
    Leaves (exec .stopSilenceExpiry s) fun t =>
      t.rc = { s.rc with state := .halted, silence := none } ∧ t = (s.setRc t.rc).setLp t.lp ∧
      (t.lp.statePlace.map OutFrame.params) =
        some (4 :: octets16 s.rc.causes ++ [boolOctet s.rc.endRequested] ++ octets32 s.sw.oldest ++ [5, 0xFF])) ∧
  ∀ (s : State) (sv : Service) (src : NodeId), Serving s sv (.reportStopped src) →
    (s.rc.state = .halting → Leaves (exec (.reportStopped src) s) fun t =>
      t.rc = { s.rc with state := .halted, silence := none } ∧ t = (s.setRc t.rc).setLp t.lp ∧
      t.lp.general = (answer sv .ok [] s).lp.general ∧
      (t.lp.statePlace.map OutFrame.params) =
        some (4 :: octets16 s.rc.causes ++ [boolOctet s.rc.endRequested] ++ octets32 s.sw.oldest ++ [4, 0xFF])) ∧
    (s.rc.state = .halted → exec (.reportStopped src) s = .next (answer sv .ok [] s)) ∧
    (s.rc.state = .standby ∨ s.rc.state = .priming ∨ s.rc.state = .run →
      exec (.reportStopped src) s = .next (answer sv .refusedState [] s))

/-! ### The expander -/

/-- An expansion event appends the next record at the tail with the counter's serial, not taken and with no effective set,
carrying the context it leaves; a LAST record makes a reservation with that serial. -/
def Obligations.ExpansionEventAppends : Prop :=
  ∀ (s : State) (m : Making) (first last closing : Bool) (tag : Word16) (copy : Nat), s.ready = true →
    s.sx.state = .expanding → s.plan = .make m first last closing → s.sx.context.tag = some tag →
    s.sx.context.copy = some copy → s.sw.ring.length < 16 → s.sw.waiting = [] →
    (closing = true → s.wt.cuts.length + s.wt.reservations.length < 8) →
    Leaves (exec .expansionEvent s) fun t =>
      (∃ r, t.sw = { s.sw with ring := s.sw.ring ++ [r], counter := nextSerial s.sw.counter } ∧
        r.serial = s.sw.counter ∧ r.kind = m.kind ∧ r.dx = m.dx ∧ r.dy = m.dy ∧ r.lateral = m.lateral ∧
        r.web = m.context.web ∧ r.planned = m.planned ∧ r.effective = none ∧ r.tag = tag ∧ r.copy = copy ∧
        r.flags = ⟨first, last, m.clipped, false, false⟩ ∧ r.takenHead = false ∧ r.takenFeed = false ∧
        r.context = some m.context) ∧
      t.queue = s.queue ∧ t.gh = s.gh ∧ t.wt.cuts = s.wt.cuts ∧ t.wt.web = s.wt.web ∧
      (last = false → t.wt = s.wt) ∧
      (last = true → ∀ o, findOrder s.queue tag = some o → t.wt.reservations = s.wt.reservations ++
        [⟨tag, copy, s.sx.context.panelStart + BitVec.ofNat 32 (o.length + o.gap / 2), s.sw.counter⟩])

/-- What the expander's next record is. The lead-in's records move to Xs alone. A tack group goes on with its alternating steps,
and its last record ends it. Between segments, past those that make no record, and at the first repeat: a RUN reached with the
seam open to a START group begins with its tack, and else with its first SEW record; a JUMP reached in a seam begins with an END
group, and else with its first JUMP record; a TACK begins its group; and with no segment in hand the next one is needed. A step of a
segment in hand follows R60. The body's end makes an END group in a seam, and else the run-out with its cut mark, whose first record
is the closing one, or no record. FIRST marks the copy's first record, and a record is LAST only when it ends the run-out, or
leaves the copy with no run-out to make. Where that has to be found out first, a segment is needed (log 14). -/
def Obligations.ExpanderMakesRecords : Prop :=
  ∀ (e : CopyEnv) (c : Context) (hand : List (Nat × Segment)),
    let teff (length : Nat) : Nat := min length (min e.st.yFwd e.st.yRev)
    let clamped (x : Int) : Int := clampInt x 0 e.st.travel
    let first := decide (c.phase = .leadIn ∧ c.step = 0)
    let makes (P : Making → Prop) : Prop :=
      (∃ m last closing, e.plan c hand = .make m first last closing ∧ P m) ∨
        (e.order.gap = 0 ∧ ∃ i, e.plan c hand = .need i)
    -- the lead-in
    (c.phase = .leadIn → c.tack = none → c.step < c.steps → c.panelY ≠ e.order.length →
      ∃ m, e.plan c hand = .make m first false false ∧ m.kind = .jump ∧ m.planned = 0 ∧ m.dy = 0 ∧ m.hand = hand ∧
        m.context.intended = c.baseLateral + rdiv ((e.order.start - c.baseLateral) * (c.step + 1 : Nat)) c.steps ∧
        m.dx = m.lateral - clamped c.intended ∧ m.context.panelY = c.panelY ∧ m.context.step = c.step + 1 ∧
        m.context.phase = .leadIn) ∧
    -- a tack group
    (∀ t, (c.phase = .body ∨ c.phase = .endTack) → c.tack = some t →
      let dy : Int := if t.index % 2 = 1 then t.length else -t.length
      (t.index < t.count → ∃ m, e.plan c hand = .make m false false false ∧ m.kind = .tack ∧ m.dx = 0 ∧
        m.lateral = clamped c.intended ∧ m.dy = dy ∧ m.planned = e.order.groups &&& c.mask ∧ m.hand = hand ∧
        m.context = { c with
          tack := some { t with index := t.index + 1 }
          step := if t.kind = .explicit then c.step + 1 else c.step
          web := c.web + BitVec.ofInt 32 dy }) ∧
      (t.count ≤ t.index → makes fun m => m.kind = .tack ∧ m.dx = 0 ∧ m.lateral = clamped c.intended ∧ m.dy = dy ∧
        m.planned = e.order.groups &&& c.mask ∧
        (t.kind ≠ .explicit → m.hand = hand) ∧
        (∀ g rest, t.kind = .explicit → hand = (c.segment, g) :: rest → m.hand = rest) ∧
        m.context = { c with
          tack := none
          seam := c.seam && decide (t.kind ≠ .ending)
          step := if t.kind = .explicit then c.step + 1 else c.step
          web := c.web + BitVec.ofInt 32 dy })) ∧
    -- no segment in hand
    (∀ d, Passes e c hand d [] → d.phase = .body → d.tack = none → e.plan c hand = .need d.position) ∧
    -- a segment that is reached
    (∀ d g rest, Passes e c hand d ((d.position, g) :: rest) → BeforeSegment d → ¬ CutAtStart e d g →
      (g.op = some .run →
        (d.seam = false → 2 ≤ d.tackCount → ∃ m, e.plan c hand = .make m first false false ∧ m.kind = .tack ∧ m.dx = 0 ∧
          m.dy = teff d.tackLength ∧ m.planned = e.order.groups &&& d.mask ∧ m.hand = (d.position, g) :: rest ∧
          m.context.segment = d.position ∧ m.context.step = 0 ∧ m.context.steps = runSteps e.st d.stitch g ∧
          m.context.tack = some ⟨.start, 2, d.tackCount, teff d.tackLength⟩) ∧
        (d.seam = true ∨ d.tackCount = 0 → makes fun m => m.kind = .sew ∧ m.planned = e.order.groups &&& d.mask ∧
          m.dy = rdiv g.b (runSteps e.st d.stitch g) ∧ m.dx = m.lateral - clamped d.intended ∧
          m.context.intended = d.intended + rdiv g.a (runSteps e.st d.stitch g) ∧ m.context.panelY = d.panelY + m.dy ∧
          m.context.seam = true ∧ m.context.tack = none ∧ m.context.segment = d.position ∧ m.context.step = 1 ∧
          m.context.steps = runSteps e.st d.stitch g)) ∧
      (g.op = some .jump →
        (d.seam = true → 2 ≤ d.tackCount → ∃ m, e.plan c hand = .make m first false false ∧ m.kind = .tack ∧ m.dx = 0 ∧
          m.dy = teff d.tackLength ∧ m.planned = e.order.groups &&& d.mask ∧ m.hand = (d.position, g) :: rest ∧
          m.context.segment = d.position ∧ m.context.step = 0 ∧ m.context.steps = jumpSteps e.st g.a g.b ∧
          m.context.tack = some ⟨.ending, 2, d.tackCount, teff d.tackLength⟩) ∧
        (d.seam = false ∨ d.tackCount = 0 → g.a ≠ 0 ∨ g.b ≠ 0 → makes fun m => m.kind = .jump ∧ m.planned = 0 ∧
          m.dy = rdiv g.b (jumpSteps e.st g.a g.b) ∧ m.dx = m.lateral - clamped d.intended ∧
          m.context.intended = d.intended + rdiv g.a (jumpSteps e.st g.a g.b) ∧ m.context.panelY = d.panelY + m.dy ∧
          m.context.seam = false ∧ m.context.tack = none ∧ m.context.segment = d.position ∧ m.context.step = 1 ∧
          m.context.steps = jumpSteps e.st g.a g.b)) ∧
      (g.op = some .tack → 2 ≤ g.a → ∃ m, e.plan c hand = .make m first false false ∧ m.kind = .tack ∧ m.dx = 0 ∧
        m.dy = teff g.b.toNat ∧ m.planned = e.order.groups &&& d.mask ∧ m.hand = (d.position, g) :: rest ∧
        m.context.segment = d.position ∧ m.context.step = 1 ∧ m.context.steps = g.a.toNat ∧ m.context.seam = d.seam ∧
        m.context.tack = some ⟨.explicit, 2, g.a.toNat, teff g.b.toNat⟩)) ∧
    -- a step of a segment in hand
    (∀ g rest, hand = (c.segment, g) :: rest → c.phase = .body → c.tack = none → c.step < c.steps →
      g.op = some .run ∨ g.op = some .jump →
      (e.order.mode = .truncate → c.baseY + rdiv (g.b * (c.step + 1 : Nat)) c.steps ≤ e.order.length) →
      makes fun m => m.kind = (if g.op = some .run then .sew else .jump) ∧
        m.planned = (if g.op = some .run then e.order.groups &&& c.mask else 0) ∧
        m.dy = rdiv (g.b * (c.step + 1 : Nat)) c.steps - rdiv (g.b * c.step) c.steps ∧
        m.dx = m.lateral - clamped c.intended ∧
        m.context.intended = c.baseLateral + rdiv (g.a * (c.step + 1 : Nat)) c.steps ∧
        m.context.panelY = c.baseY + rdiv (g.b * (c.step + 1 : Nat)) c.steps ∧
        m.context.step = c.step + 1 ∧ m.context.seam = (c.seam || decide (g.op = some .run)) ∧
        m.hand = (if c.steps ≤ c.step + 1 then rest else hand)) ∧
    -- the body's end
    (∀ d, BodyEnds e c hand d →
      (d.seam = true → 2 ≤ d.tackCount → ∃ m, e.plan c hand = .make m first false false ∧ m.kind = .tack ∧ m.dx = 0 ∧
        m.dy = teff d.tackLength ∧ m.planned = e.order.groups &&& d.mask ∧ m.context.phase = .endTack ∧
        m.context.tack = some ⟨.ending, 2, d.tackCount, teff d.tackLength⟩ ∧
        m.context.panelY = d.panelY ∧ m.context.intended = d.intended) ∧
      (d.seam = false ∨ d.tackCount = 0 →
        let dx : Int := e.order.start - d.intended
        let dy : Int := e.order.length - d.panelY + e.order.gap
        let n := jumpSteps e.st dx dy
        let cut := d.panelStart + BitVec.ofNat 32 (e.order.length + e.order.gap / 2)
        (dx ≠ 0 ∨ dy ≠ 0 → ∃ m, e.plan c hand = .make m first (decide (n ≤ 1)) true ∧ m.kind = .jump ∧ m.planned = 0 ∧
          m.dy = rdiv dy n ∧ m.dx = m.lateral - clamped d.intended ∧ m.context.intended = d.intended + rdiv dx n ∧
          m.context.panelY = d.panelY + rdiv dy n ∧ m.context.cutMark = some cut ∧
          m.context.phase = (if n ≤ 1 then .done else .runOut)) ∧
        (dx = 0 → dy = 0 → ∃ c', e.plan c hand = .ended c' ∧ c'.phase = .done ∧ c'.cutMark = some cut))) ∧
    -- the run-out goes on
    (c.phase = .runOut → c.tack = none → c.step < c.steps →
      let dy : Int := e.order.length - c.baseY + e.order.gap
      ∃ m, e.plan c hand = .make m false (decide (c.steps ≤ c.step + 1)) (decide (c.step = 0)) ∧ m.kind = .jump ∧
        m.planned = 0 ∧ m.dy = rdiv (dy * (c.step + 1 : Nat)) c.steps - rdiv (dy * c.step) c.steps ∧
        m.dx = m.lateral - clamped c.intended ∧
        m.context.intended = c.baseLateral + rdiv ((e.order.start - c.baseLateral) * (c.step + 1 : Nat)) c.steps ∧
        m.context.panelY = c.baseY + rdiv (dy * (c.step + 1 : Nat)) c.steps ∧ m.context.step = c.step + 1 ∧
        m.context.phase = (if c.steps ≤ c.step + 1 then .done else .runOut)) ∧
    -- the marks
    ∀ m f last closing, e.plan c hand = .make m f last closing →
      (f = true ↔ c.phase = .leadIn ∧ c.step = 0) ∧ m.context.web = c.web + BitVec.ofInt 32 m.dy ∧
      (m.context.phase = .done → last = true) ∧
      (last = true → m.context.phase = .done ∨ (m.context.phase ≠ .runOut ∧ m.context.tack = none ∧ e.order.gap = 0 ∧
        m.context.panelY = e.order.length ∧ m.context.intended = e.order.start))

/-! ### The Library Controller -/

/-- The array's reports of program steps, with their read-back. COMMIT PAGE: the mark OPENED read back shows the slot OPEN and the
page data follow; the page data read back end it DONE; a loaded 0xFF over a blank byte programs nothing, and passes. CLOSE SLOT:
the summary read back leads to the mark CLOSED, and the mark read back ends it DONE with the slot CLOSED. A failed read-back of these leads to the mark VOID, whose write is a step of its own
(log 11), or ends the operation FAILED at once where the mark is VOID already; the end of that write ends it FAILED. ERASE SLOT:
the VOID mark read back leads to the erase, and else ends it FAILED. WRITE SETUP: its four steps in order; a page left by a failed
step 3 or 4 is not usable. What a failed byte becomes is an operand (log 9). -/
def Obligations.ProgramStepEndsCommit : Prop :=
  ∀ (s : State) (work : OpWork) (at' : ArrayStep) (failed : List Host.Cell) (i : Bool), s.powered = true →
    s.pl.op = some ⟨work, .stepping at', i, false⟩ → stepErases at' = false →
    let bytes := work.cells at'
    let mem := programCells s.pl.array failed bytes
    let good := readBack mem bytes
    Leaves (exec (.programStepComplete at' failed) s) fun t =>
      t.pl.array = mem ∧
      (∀ slot page cells, work = .commit slot page cells →
        (at' = .openedMark → good = true → t.pl.op.map (fun o => (o.work, o.point)) = some (work, .stepping .pageData) ∧
          t.pl.table = s.pl.table.set slot .opened ∧ t.pl.outcome = s.pl.outcome) ∧
        (at' = .pageData → bytes = (cells.map fun c => (pageBase slot page + c.1, c.2)) ∧
          (∀ o, (∀ c ∈ cells, c.1 = o → c.2 = 0xFF) → arrayByte s.pl.array (pageBase slot page + o) = 0xFF →
            arrayByte mem (pageBase slot page + o) = 0xFF) ∧
          (good = true → t.pl.op = none ∧ t.pl.table = s.pl.table ∧ t.pl.failFlag = s.pl.failFlag ∧
          t.pl.outcome = some ⟨.commitPage, some slot, some page, .done⟩))) ∧
      (∀ slot info, work = .close slot (some info) →
        (at' = .summaryFields → good = true → arrayByte mem (markAddress slot) = 0x7E →
          t.pl.op.map (fun o => (o.work, o.point)) = some (work, .stepping .closedMark) ∧ t.pl.table = s.pl.table) ∧
        (at' = .closedMark → bytes = [(markAddress slot, 0x3C)] ∧ (good = true → t.pl.op = none ∧
          t.pl.table = s.pl.table.set slot (.closed info) ∧ t.pl.failFlag = s.pl.failFlag ∧
          t.pl.outcome = some ⟨.closeSlot, some slot, none, .done⟩))) ∧
      (∀ slot, work.slot = some slot →
        (good = false → (at' = .openedMark ∨ at' = .pageData ∨ at' = .summaryFields ∨ at' = .closedMark) →
          (arrayByte mem (markAddress slot) ≠ 0x00 → t.pl.outcome = s.pl.outcome ∧ t.pl.table = s.pl.table ∧
            t.pl.op.map (fun o => (o.work, o.point)) = some (work, .stepping .voidMarkAfterFailure)) ∧
          (arrayByte mem (markAddress slot) = 0x00 → t.pl.op = none ∧ t.pl.failFlag = true ∧
            t.pl.table = s.pl.table.set slot .failed ∧ t.pl.outcome = some ⟨work.name, some slot, work.page, .failed⟩)) ∧
        (at' = .voidMarkAfterFailure ∨ at' = .voidMarkFirst ∧ good = false →
          bytes = [(markAddress slot, 0x00)] ∧ t.pl.op = none ∧ t.pl.failFlag = true ∧
          t.pl.table = s.pl.table.set slot .failed ∧ t.pl.outcome = some ⟨work.name, some slot, work.page, .failed⟩) ∧
        (at' = .voidMarkFirst → good = true →
          t.pl.op.map (fun o => (o.work, o.point)) = some (work, .stepping .slotErase))) ∧
      ∀ copy zeroFailed, work = .setup copy zeroFailed →
        (at' = .signatureZero → bytes = [(setupBase, 0x00), (setupBase + 1, 0x00)] ∧
          t.pl.op.map (fun o => (o.work, o.point)) = some (.setup copy (!good), .stepping .setupErase)) ∧
        (at' = .setupFields → bytes = placeBytes (setupBase + 2) (setupFieldBytes copy) ∧ (good = true →
          t.pl.op.map (fun o => (o.work, o.point)) = some (work, .stepping .signatureWrite))) ∧
        (at' = .signatureWrite → bytes = [(setupBase, 0xC3), (setupBase + 1, 0x5A)] ∧ (good = true →
          t.pl.op = none ∧ t.pl.failFlag = s.pl.failFlag ∧ t.pl.outcome = some ⟨.writeSetup, none, none, .done⟩)) ∧
        (good = false → (at' = .setupFields ∨ at' = .signatureWrite) → t.pl.op = none ∧ t.pl.failFlag = true ∧
          t.pl.outcome = some ⟨.writeSetup, none, none, .failed⟩ ∧
          (at' = .setupFields → arrayByte s.pl.array (setupBase + 1) ≠ 0x5A → readSetupPage t.pl.array = .error 0) ∧
          (at' = .signatureWrite → readSetupPage t.pl.array = .error 0))

/-- An erase of a slot that the array reports complete ends DONE with the slot EMPTY when no byte is left, and FAILED with the
fail flag set when one byte of it is. The bound's expiry ends it FAILED, and a report that follows has no effect. The erase of the
setup page leads to the fields when no byte is left and the signature had been zeroed, and else ends the WRITE SETUP FAILED. The
bound's expiry at the other steps: a program step of COMMIT PAGE or CLOSE SLOT leads to the mark VOID as its failure does (log 11);
each VOID mark write ends its operation FAILED, and so does every step of WRITE SETUP. A setup page whose signature had been zeroed
or erased is not usable after an erase, nor after a bound's expiry in a later step. What the step had done is an operand (log 8), and
what a failed erase leaves is another (log 9). -/
def Obligations.EraseEnds : Prop :=
  (∀ (s : State) (slot : Nat) (i : Bool) (residue : List Host.Cell), s.powered = true →
    s.pl.op = some ⟨.erase slot, .stepping .slotErase, i, false⟩ →
    (residue = [] → Leaves (exec (.eraseComplete residue) s) fun t =>
      t.pl.array = arrayErase s.pl.array (slotBase slot) 4096 ∧ t.pl.op = none ∧ t.pl.failFlag = s.pl.failFlag ∧
      t.pl.table = s.pl.table.set slot .empty ∧ t.pl.outcome = some ⟨.eraseSlot, some slot, none, .done⟩) ∧
    (∀ o v, o < 4096 → v ≠ (0xFF : Byte) → residue = [(slotBase slot + o, v)] →
      Leaves (exec (.eraseComplete residue) s) fun t =>
        t.pl.op = none ∧ t.pl.failFlag = true ∧ t.pl.table = s.pl.table.set slot .failed ∧
        t.pl.outcome = some ⟨.eraseSlot, some slot, none, .failed⟩) ∧
    ∀ left, Leaves (exec (.boundExpiry left) s) fun t =>
      t.pl.op = none ∧ t.pl.failFlag = true ∧ t.pl.table = s.pl.table.set slot .failed ∧
      t.pl.outcome = some ⟨.eraseSlot, some slot, none, .failed⟩ ∧
      ∀ residue, exec (.eraseComplete residue) t = .next t) ∧
  (∀ (s : State) (copy : Settings) (zeroFailed i : Bool), s.powered = true →
    s.pl.op = some ⟨.setup copy zeroFailed, .stepping .setupErase, i, false⟩ →
    (Leaves (exec (.eraseComplete []) s) fun t =>
      t.pl.array = arrayErase s.pl.array setupBase 256 ∧ t.pl.table = s.pl.table ∧
      (zeroFailed = false →
        t.pl.op.map (fun o => (o.work, o.point)) = some (.setup copy false, .stepping .setupFields)) ∧
      (zeroFailed = true → t.pl.op = none ∧ t.pl.failFlag = true ∧
        t.pl.outcome = some ⟨.writeSetup, none, none, .failed⟩)) ∧
    ∀ o v, o < 256 → v ≠ (0xFF : Byte) → Leaves (exec (.eraseComplete [(setupBase + o, v)]) s) fun t =>
      t.pl.op = none ∧ t.pl.failFlag = true ∧ t.pl.table = s.pl.table ∧
      t.pl.outcome = some ⟨.writeSetup, none, none, .failed⟩) ∧
  (∀ (s : State) (copy : Settings) (i : Bool) (residue : List Host.Cell), s.powered = true →
    s.pl.op = some ⟨.setup copy false, .stepping .setupErase, i, false⟩ →
    Leaves (exec (.eraseComplete residue) s) fun t => readSetupPage t.pl.array = .error 0) ∧
  ∀ (s : State) (work : OpWork) (at' : ArrayStep) (i : Bool) (left : List Host.Cell), s.powered = true →
    s.pl.op = some ⟨work, .stepping at', i, false⟩ →
    Leaves (exec (.boundExpiry left) s) fun t =>
      t.pl.array = s.pl.expired left ∧
      (∀ slot, work.slot = some slot →
        ((at' = .openedMark ∨ at' = .pageData ∨ at' = .summaryFields ∨ at' = .closedMark) →
          (arrayByte t.pl.array (markAddress slot) ≠ 0x00 → t.pl.outcome = s.pl.outcome ∧ t.pl.table = s.pl.table ∧
            t.pl.op.map (fun o => (o.work, o.point)) = some (work, .stepping .voidMarkAfterFailure)) ∧
          (arrayByte t.pl.array (markAddress slot) = 0x00 → t.pl.op = none ∧ t.pl.failFlag = true ∧
            t.pl.table = s.pl.table.set slot .failed ∧ t.pl.outcome = some ⟨work.name, some slot, work.page, .failed⟩)) ∧
        (at' = .voidMarkFirst ∨ at' = .voidMarkAfterFailure → t.pl.op = none ∧ t.pl.failFlag = true ∧
          t.pl.table = s.pl.table.set slot .failed ∧ t.pl.outcome = some ⟨work.name, some slot, work.page, .failed⟩)) ∧
      ∀ copy zeroFailed, work = .setup copy zeroFailed →
        (at' = .signatureZero ∨ at' = .setupErase ∨ at' = .setupFields ∨ at' = .signatureWrite) →
        t.pl.op = none ∧ t.pl.failFlag = true ∧ t.pl.table = s.pl.table ∧
        t.pl.outcome = some ⟨.writeSetup, none, none, .failed⟩ ∧
        (at' ≠ .signatureZero → arrayByte s.pl.array (setupBase + 1) ≠ 0x5A → readSetupPage t.pl.array = .error 0)

/-- An expander read and a step that runs. A progress interval that ends with the read waiting and none in flight pauses the
step, counts a suspension and puts the read in flight; with none waiting the step goes on. A read that the expander asks for once it
has made a record suspends the step at once and is counted, or waits where an interval runs. A finished expander read brings its
segment to the hand, unless its context was replaced; the paused step then resumes into a progress interval where no further read is
asked for or waits, and else the next read is served in the same suspension. -/
def Obligations.ProgressIntervalEnds : Prop :=
  (∀ (s : State) (work : OpWork) (step : ArrayStep), s.powered = true →
    s.pl.op = some ⟨work, .stepping step, true, false⟩ → s.pl.port.inFlight = none →
    (∀ r, s.pl.port.expander = some r → Leaves (exec .progressIntervalEnd s) fun t =>
      t.pl.op = some ⟨work, .stepping step, false, true⟩ ∧ t.pl.port.inFlight = some r ∧ t.pl.port.expander = none ∧
      t.rc = { s.rc with counters := { s.rc.counters with suspensions := saturatingSucc s.rc.counters.suspensions } }) ∧
    (s.pl.port.expander = none → exec .progressIntervalEnd s =
      .next (s.setPl { s.pl with op := some ⟨work, .stepping step, false, false⟩ }))) ∧
  (∀ (s : State) (work : OpWork) (step : ArrayStep) (interval : Bool) (m : Making) (first last closing : Bool)
      (tag : Word16) (copy : Nat) (o : Order) (i : Nat),
    s.ready = true → s.pl.op = some ⟨work, .stepping step, interval, false⟩ → s.pl.port = .quiet →
    s.sx.state = .expanding → s.plan = .make m first last closing → s.sx.context.tag = some tag →
    s.sx.context.copy = some copy → s.sw.ring.length < 16 → s.sw.waiting = [] →
    (closing = true → s.wt.cuts.length + s.wt.reservations.length < 8) → m.context.tag = some tag →
    findOrder s.queue tag = some o →
    (s.setSx { s.sx with context := m.context, hand := m.hand }).plan = .need i →
    Leaves (exec .expansionEvent s) fun t =>
      (interval = false → t.pl.op = some ⟨work, .stepping step, false, true⟩ ∧
        t.pl.port = { Port.quiet with inFlight := some (.expander o.slot i true) } ∧
        t.rc.counters.suspensions = saturatingSucc s.rc.counters.suspensions) ∧
      (interval = true → t.pl.op = s.pl.op ∧ t.pl.port = { Port.quiet with expander := some (.expander o.slot i true) } ∧
        t.rc.counters = s.rc.counters)) ∧
  ∀ (s : State) (slot i : Nat) (live : Bool), s.ready = true → s.pl.port.inFlight = some (.expander slot i live) →
    let read := if live then s.sx.hand ++ [(i, readSegment s.pl.array (slotBase slot +
      (if i < 28 then 32 + 8 * i else 256 * (1 + (i - 28) / 32) + 8 * ((i - 28) % 32))))] else s.sx.hand
    let given := (s.setSx { s.sx with hand := read }).plan
    Leaves (exec .readComplete s) fun t =>
      t.pl.array = s.pl.array ∧ t.sw = s.sw ∧ t.queue = s.queue ∧
      ((∀ work step, s.pl.op ≠ some ⟨work, .stepping step, false, false⟩) → t.rc.counters = s.rc.counters) ∧
      ((∀ c, given ≠ .ended c) → t.sx.hand = read ∧ t.sx.context = s.sx.context) ∧
      ∀ work step interval, s.pl.op = some ⟨work, .stepping step, interval, true⟩ →
        (s.pl.port.expander = none → (∃ m first last closing, given = .make m first last closing) →
          t.pl.op = some ⟨work, .stepping step, true, false⟩ ∧ t.pl.port.inFlight = none) ∧
        (s.pl.port.expander = none → s.sx.state ≠ .idle → s.sx.state ≠ .holding .queueEmpty →
          s.sx.state ≠ .holding .endRequested → ∀ tag o j, s.sx.context.tag = some tag → findOrder s.queue tag = some o →
          given = .need j → t.pl.op = s.pl.op ∧ t.pl.port.inFlight = some (.expander o.slot j true)) ∧
        ∀ r, s.pl.port.expander = some r → t.pl.op = s.pl.op ∧ t.pl.port.inFlight = some r ∧ t.pl.port.expander = none

/-- The reads that a request waits for. READ LIBRARY's answer OK carries the bytes, the byte after the slot's last being its
first. COMMIT PAGE's WRITTEN read answers WRITTEN where a loaded offset's byte is not blank, EMPTY where no offset is loaded, and
else accepts the commit of the loaded offsets. RELOAD SETUP's read replaces the settings by a usable page's, and else leaves them
and names the test that failed. That the bytes are those at the read's end is log 31's reading, that EMPTY comes after a read is
log 28's, and that node number, cell time and filter come into force with the answer's end is log 18's. -/
def Obligations.LibraryReadIsAnswered : Prop :=
  (∀ (s : State) (sv : Service) (slot page offset count : Nat), s.powered = true →
    s.pl.port.inFlight = some (.library slot page offset count) → s.lp.service = some sv → sv.phase = .library →
    Leaves (exec .readComplete s) fun t =>
      t.lp.service = none ∧ t.pl.array = s.pl.array ∧
      t.lp.general = s.lp.general ++ [⟨sv.node, .answer, 0x00,
        (List.range count).map (fun i => arrayByte s.pl.array (slotBase slot + (page * 256 + offset + i) % 4096)),
        answerPriority (some sv.role), 0, .none⟩]) ∧
  (∀ (s : State) (sv : Service) (slot page : Nat), s.powered = true →
    s.pl.port.inFlight = some (.written slot page) → s.lp.service = some sv → sv.phase = .written → s.pl.op = none →
    Leaves (exec .readComplete s) fun t =>
      t.lp.service = none ∧ t.pl.array = s.pl.array ∧ t.pl.table = s.pl.table ∧ t.pl.outcome = s.pl.outcome ∧
      (let answered (status : Byte) : List OutFrame :=
        s.lp.general ++ [⟨sv.node, .answer, status, [], answerPriority (some sv.role), 0, .none⟩]
       ((∃ c ∈ s.pl.pageBuffer, arrayByte s.pl.array (pageBase slot page + c.1) ≠ 0xFF) →
        t.lp.general = answered 0x18 ∧ t.pl.op = none ∧ t.pl.pageBuffer = s.pl.pageBuffer ∧
        t.pl.failFlag = s.pl.failFlag) ∧
       (s.pl.pageBuffer = [] → t.lp.general = answered 0x19 ∧ t.pl.op = none ∧ t.pl.pageBuffer = [] ∧
        t.pl.failFlag = s.pl.failFlag) ∧
       (s.pl.pageBuffer ≠ [] → (∀ c ∈ s.pl.pageBuffer, arrayByte s.pl.array (pageBase slot page + c.1) = 0xFF) →
        tableEntry s.pl.table slot = some .opened →
        t.lp.general = answered 0x00 ∧ t.pl.pageBuffer = [] ∧ t.pl.failFlag = false ∧
        t.pl.op.map (fun o => (o.work, o.point)) = some (.commit slot page s.pl.pageBuffer, .stepping .pageData)))) ∧
  ∀ (s : State) (sv : Service), s.powered = true → s.pl.port.inFlight = some .reload → s.lp.service = some sv →
    sv.phase = .reload →
    Leaves (exec .readComplete s) fun t =>
      t.lp.service = none ∧ t.pl.array = s.pl.array ∧ t.pl.failFlag = s.pl.failFlag ∧
      (∀ test, readSetupPage s.pl.array = .error test → t.st = s.st ∧ t.queue = s.queue ∧
        t.pl.outcome = some ⟨.reloadSetup, none, none, .failed⟩ ∧
        t.lp.general = s.lp.general ++ [⟨sv.node, .answer, 0x00, [1, test], answerPriority (some sv.role), 0, .none⟩]) ∧
      ∀ new, readSetupPage s.pl.array = .ok new → t.st = { s.st with working := new, defaults := false } ∧
        t.queue = s.queue.map (fun o => o.withTravel new.travel s.pl.table) ∧
        t.pl.outcome = some ⟨.reloadSetup, none, none, .done⟩ ∧
        t.lp.general = s.lp.general ++ [⟨sv.node, .answer, 0x00, [0], answerPriority (some sv.role), 0,
          ⟨some new.nodeNumber, some new.cellTime, some new.lineFilter, false⟩⟩]

/-- Validation: the header's two checks, the checks of each segment in their order, the walk's position and extents, the three
final checks and the summary. A validation read of CLOSE SLOT goes on with the next segment, ends the operation INVALID with
reason and index and nothing else changed, or leads to the program phase with the summary. -/
def Obligations.ValidationFollowsChecks : Prop :=
  (∀ segments stitch : Nat,
    (segments < 1 ∨ 508 < segments → walkHeader segments stitch = .bad 65535 .count) ∧
    (1 ≤ segments → segments ≤ 508 → stitch < 10 ∨ 100 < stitch → walkHeader segments stitch = .bad 65535 .badLength) ∧
    (1 ≤ segments → segments ≤ 508 → 10 ≤ stitch → stitch ≤ 100 →
      walkHeader segments stitch = .more ⟨segments, stitch, 0, 0, 0, 0, 0, 0, false⟩)) ∧
  (∀ (w : Walk) (g : Segment),
    (g.op = none ∨ g.flags ≠ 0 → walkSegment w g = .bad w.index .badOp) ∧
    (g.flags = 0 → g.op = some .endOfBody →
      (g.a ≠ 0 ∨ g.b ≠ 0 → walkSegment w g = .bad w.index .badOp) ∧
      (g.a = 0 → g.b = 0 →
        (g.override ≠ 0 → walkSegment w g = .bad w.index .badLength) ∧
        (g.override = 0 →
          (w.index + 1 ≠ w.segments → walkSegment w g = .bad w.index .noEnd) ∧
          (w.index + 1 = w.segments →
            (w.x ≠ 0 → walkSegment w g = .bad w.index .netDx) ∧
            (w.x = 0 → w.y ≤ 0 → walkSegment w g = .bad w.index .nonPositiveR) ∧
            (w.x = 0 → 0 < w.y → walkSegment w g =
              .valid ⟨w.segments, w.stitch, w.y.toNat, w.yReach.toNat, w.xMin, w.xMax.toNat, w.reverse⟩))))) ∧
    (g.flags = 0 → g.op = some .run ∨ g.op = some .jump →
      (g.op = some .run → (g.override ≠ 0 ∧ g.override < 10) ∨ 100 < g.override →
        walkSegment w g = .bad w.index .badLength) ∧
      (g.op = some .jump → g.override ≠ 0 → walkSegment w g = .bad w.index .badLength) ∧
      (g.override = 0 ∨ (g.op = some .run ∧ 10 ≤ g.override ∧ g.override ≤ 100) →
        (w.y + g.b < 0 → walkSegment w g = .bad w.index .belowOrigin) ∧
        (0 ≤ w.y + g.b → w.index + 1 = w.segments → walkSegment w g = .bad w.index .noEnd) ∧
        (0 ≤ w.y + g.b → w.index + 1 < w.segments → walkSegment w g = .more { w with
          index := w.index + 1
          x := w.x + g.a
          y := w.y + g.b
          yReach := max w.yReach (w.y + g.b)
          xMin := min w.xMin (w.x + g.a)
          xMax := max w.xMax (w.x + g.a)
          reverse := w.reverse || decide (g.b < 0) }))) ∧
    (g.flags = 0 → g.op = some .tack ∨ g.op = some .groups →
      (g.override ≠ 0 → walkSegment w g = .bad w.index .badLength) ∧
      (g.override = 0 →
        (g.op = some .tack → ¬ ((g.a = 2 ∨ g.a = 4 ∨ g.a = 6) ∧ 1 ≤ g.b ∧ g.b ≤ 20) →
          walkSegment w g = .bad w.index .badLength) ∧
        (g.op = some .groups ∨ ((g.a = 2 ∨ g.a = 4 ∨ g.a = 6) ∧ 1 ≤ g.b ∧ g.b ≤ 20) →
          (w.index + 1 = w.segments → walkSegment w g = .bad w.index .noEnd) ∧
          (w.index + 1 < w.segments → walkSegment w g = .more { w with index := w.index + 1 }))))) ∧
  ∀ (s : State) (slot : Nat) (info : Option SlotInfo) (v : Validation) (i suspended : Bool), s.powered = true →
    s.pl.op = some ⟨.close slot info, .validating v, i, suspended⟩ → s.pl.port.inFlight = some .closing →
    let result := match v with
      | .header => walkHeader (headerSegments s.pl.array slot) (headerStitch s.pl.array slot)
      | .segment w => walkSegment w (readSegment s.pl.array (segmentAddress slot w.index))
    Leaves (exec .readComplete s) fun t =>
      t.pl.array = s.pl.array ∧ t.pl.table = s.pl.table ∧ t.pl.failFlag = s.pl.failFlag ∧
      (∀ w, result = .more w → t.pl.outcome = s.pl.outcome ∧
        t.pl.op.map (fun o => (o.work, o.point)) = some (.close slot info, .validating (.segment w))) ∧
      (∀ n reason, result = .bad n reason → t.pl.op = none ∧
        t.pl.outcome = some ⟨.closeSlot, some slot, none, .invalid n reason⟩) ∧
      ∀ summary, result = .valid summary → t.pl.outcome = s.pl.outcome ∧
        t.pl.op.map (fun o => (o.work, o.point)) = some (.close slot (some summary), .stepping .summaryFields)

/-- Start-up. A setup page that holds the signature and the fields of settings in range is read as those settings, and one
without the signature fails. The setup load takes the page's settings, or the defaults with the setup-defaults flag set, and the
values that follow them. The scan finds a slot EMPTY when all its pages are blank, OPEN with the mark OPENED, CLOSED with the mark
CLOSED, a pattern that validates and an equal summary, and FAILED otherwise. The reads it makes are log 24's. -/
def Obligations.StartUpLoadsAndScans : Prop :=
  (∀ (mem : List Host.Cell) (st : Settings), SettingsInRange st → roleTableOk st.roles = true → st.roles.length ≤ 8 →
    arrayBytes mem setupBase (28 + 2 * st.roles.length) = 0xC3 :: 0x5A :: setupFieldBytes st →
    readSetupPage mem = .ok st) ∧
  (∀ mem : List Host.Cell, arrayByte mem setupBase ≠ 0xC3 ∨ arrayByte mem (setupBase + 1) ≠ 0x5A →
    readSetupPage mem = .error 0) ∧
  (∀ s : State, ScanningAt s [] .setup → Leaves (exec .readComplete s) fun t =>
    (∀ new, readSetupPage s.pl.array = .ok new → t.st = { s.st with working := new, defaults := false }) ∧
    (∀ test, readSetupPage s.pl.array = .error test →
      t.st = { s.st with working := Settings.defaults, defaults := true }) ∧
    t.lp.node = t.st.working.nodeNumber ∧ t.lp.cellTime = t.st.working.cellTime ∧
    t.lp.filter = t.st.working.lineFilter ∧ t.wt.lateral = t.st.working.homeLateral ∧
    t.sx.context.intended = t.st.working.homeLateral ∧ t.sw.leadLimit = t.st.working.leadLimit ∧
    t.pl = { s.pl with port := { Port.quiet with inFlight := some (.scan (.page 0 0)) } } ∧ t.rc = s.rc) ∧
  (∀ (s : State) (found : List SlotEntry) (slot page : Nat), ScanningAt s found (.page slot page) →
    (spanBlank s.pl.array (pageBase slot page) 256 = true → page < 15 →
      Leaves (exec .readComplete s) fun t => ScanGoesOn s t (.page slot (page + 1))) ∧
    (spanBlank s.pl.array (pageBase slot page) 256 = true → 15 ≤ page →
      Leaves (exec .readComplete s) fun t => SlotClassified s t found .empty) ∧
    (spanBlank s.pl.array (pageBase slot page) 256 = false →
      Leaves (exec .readComplete s) fun t => ScanGoesOn s t (.mark slot))) ∧
  (∀ (s : State) (found : List SlotEntry) (slot : Nat), ScanningAt s found (.mark slot) →
    (arrayByte s.pl.array (markAddress slot) = 0x7E →
      Leaves (exec .readComplete s) fun t => SlotClassified s t found .opened) ∧
    (arrayByte s.pl.array (markAddress slot) = 0x3C →
      Leaves (exec .readComplete s) fun t => ScanGoesOn s t (.header slot)) ∧
    (arrayByte s.pl.array (markAddress slot) ≠ 0x7E → arrayByte s.pl.array (markAddress slot) ≠ 0x3C →
      Leaves (exec .readComplete s) fun t => SlotClassified s t found .failed)) ∧
  ∀ (s : State) (found : List SlotEntry) (slot : Nat) (r : ScanRead) (result : WalkResult), ScanningAt s found r →
    (r = .header slot ∧ result = walkHeader (headerSegments s.pl.array slot) (headerStitch s.pl.array slot)) ∨
      (∃ w, r = .segment slot w ∧
        result = walkSegment w (readSegment s.pl.array (segmentAddress slot w.index))) →
    (∀ w, result = .more w → Leaves (exec .readComplete s) fun t => ScanGoesOn s t (.segment slot w)) ∧
    (∀ n reason, result = .bad n reason → Leaves (exec .readComplete s) fun t => SlotClassified s t found .failed) ∧
    ∀ info, result = .valid info → Leaves (exec .readComplete s) fun t => SlotClassified s t found
      (if arrayBytes s.pl.array (slotBase slot + 16) 15 = octets32 (BitVec.ofNat 32 info.advance) ++
        octetsNat24 info.yReach ++ octetsInt32 info.xMin ++ octetsNat24 info.xMax ++ [boolOctet info.reverse]
       then .closed info else .failed)

/-- LOAD BUFFER: 1 to 20 bytes are loaded from the offset on, the offset after 255 being 0; the answer counts the loaded
offsets; no bytes or more than 20 are BAD_PARAM. Nothing else changes. -/
def Obligations.LoadBufferLoads : Prop :=
  ∀ (s : State) (sv : Service) (src : NodeId) (offset : Byte) (data : List Byte),
    Serving s sv (.loadBuffer src offset data) →
    (1 ≤ data.length → data.length ≤ 20 → ∃ buffer,
      exec (.loadBuffer src offset data) s =
        .next (answer sv .ok (octetsNat16 buffer.length) (s.setPl { s.pl with pageBuffer := buffer })) ∧
      (∀ i, i < data.length → cellAt buffer ((offset.toNat + i) % 256) = data[i]?) ∧
      ∀ o, (∀ i, i < data.length → o ≠ (offset.toNat + i) % 256) → cellAt buffer o = cellAt s.pl.pageBuffer o) ∧
    (data.length = 0 ∨ 20 < data.length → exec (.loadBuffer src offset data) s = .next (answer sv .badParam [] s))

/-- R21: CLEAR BUFFER unloads every offset and is answered OK with the count of offsets loaded before it, in every run state
and controller state. -/
def Obligations.ClearBufferUnloads : Prop :=
  ∀ (s : State) (sv : Service) (src : NodeId), Serving s sv (.clearBuffer src) →
    exec (.clearBuffer src) s =
      .next (answer sv .ok (octetsNat16 s.pl.pageBuffer.length) (s.setPl { s.pl with pageBuffer := [] }))

/-- The four operations accepted: the fail flag is cleared, the answer is OK, and the operation in hand stands at its first
step (COMMIT PAGE on an EMPTY slot, ERASE SLOT on a slot in any state, CLOSE SLOT on an OPEN one, WRITE SETUP). With the port quiet
COMMIT PAGE on an OPEN slot, READ LIBRARY and RELOAD SETUP put their read in flight, and their answer waits for it; that COMMIT
PAGE does so with no offset loaded, too, is log 28's reading. -/
def Obligations.OperationsAreAccepted : Prop :=
  (∀ (s : State) (sv : Service) (src : NodeId) (slot page : Byte), s.pl.op = none → slot.toNat ≤ 31 → page.toNat ≤ 15 →
    hasBit s.st.working.protect slot.toNat = false → slotInUse s.queue slot.toNat = false →
    (Serving s sv (.commitPage src slot page) → tableEntry s.pl.table slot.toNat = some .empty →
      s.pl.pageBuffer ≠ [] → (page = 0 → ∀ c ∈ s.pl.pageBuffer, c.1 < 16 ∨ 31 < c.1) →
      Leaves (exec (.commitPage src slot page) s) fun t =>
        t.pl.op.map (fun o => (o.work, o.point)) =
          some (.commit slot.toNat page.toNat s.pl.pageBuffer, .stepping .openedMark) ∧
        t.pl.pageBuffer = [] ∧ t.pl.failFlag = false ∧ t.lp = (answer sv .ok [] s).lp ∧ t.pl.table = s.pl.table ∧
        t.pl.array = s.pl.array) ∧
    (Serving s sv (.eraseSlot src slot) → tableEntry s.pl.table slot.toNat = some .empty →
      Leaves (exec (.eraseSlot src slot) s) fun t =>
        t.pl.op.map (fun o => (o.work, o.point)) = some (.erase slot.toNat, .stepping .slotErase) ∧
        t.pl.failFlag = false ∧ t.lp = (answer sv .ok [] s).lp ∧ t.pl.table = s.pl.table ∧ t.pl.array = s.pl.array) ∧
    (Serving s sv (.eraseSlot src slot) → tableEntry s.pl.table slot.toNat ≠ some .empty →
      Leaves (exec (.eraseSlot src slot) s) fun t =>
        t.pl.op.map (fun o => (o.work, o.point)) = some (.erase slot.toNat, .stepping
          (if arrayByte s.pl.array (markAddress slot.toNat) = 0x00 then .slotErase else .voidMarkFirst)) ∧
        t.pl.failFlag = false ∧ t.lp = (answer sv .ok [] s).lp ∧ t.pl.table = s.pl.table.set slot.toNat .failed ∧
        t.pl.array = s.pl.array) ∧
    (Serving s sv (.closeSlot src slot) → tableEntry s.pl.table slot.toNat = some .opened →
      Leaves (exec (.closeSlot src slot) s) fun t =>
        t.pl.op.map (fun o => (o.work, o.point)) = some (.close slot.toNat none, .validating .header) ∧
        t.pl.failFlag = false ∧ t.lp = (answer sv .ok [] s).lp ∧ t.pl.table = s.pl.table ∧ t.pl.array = s.pl.array)) ∧
  (∀ (s : State) (sv : Service) (src : NodeId), s.pl.op = none → Serving s sv (.writeSetup src) →
    s.rc.state = .standby → Leaves (exec (.writeSetup src) s) fun t =>
      t.pl.op.map (fun o => (o.work, o.point)) = some (.setup s.st.working false, .stepping .signatureZero) ∧
      t.pl.failFlag = false ∧ t.lp = (answer sv .ok [] s).lp ∧ t.st = s.st ∧ t.pl.array = s.pl.array) ∧
  ∀ (s : State) (sv : Service) (src : NodeId) (slot page offset count : Byte), s.pl.op = none → s.pl.port = .quiet →
    (Serving s sv (.commitPage src slot page) → slot.toNat ≤ 31 → page.toNat ≤ 15 →
      hasBit s.st.working.protect slot.toNat = false → slotInUse s.queue slot.toNat = false →
      tableEntry s.pl.table slot.toNat = some .opened → (page = 0 → ∀ c ∈ s.pl.pageBuffer, c.1 < 16 ∨ 31 < c.1) →
      exec (.commitPage src slot page) s = .next ((s.setPort { Port.quiet with
        inFlight := some (.written slot.toNat page.toNat) }).serviceWaits sv .written)) ∧
    (Serving s sv (.readLibrary src slot page offset count) → slot.toNat ≤ 31 → page.toNat ≤ 15 → 1 ≤ count.toNat →
      count.toNat ≤ 20 → exec (.readLibrary src slot page offset count) s =
        .next ((s.setPort { Port.quiet with
          inFlight := some (.library slot.toNat page.toNat offset.toNat count.toNat) }).serviceWaits sv .library)) ∧
    (Serving s sv (.reloadSetup src) → s.rc.state = .standby → exec (.reloadSetup src) s =
      .next ((s.setPort { Port.quiet with inFlight := some .reload }).serviceWaits sv .reload))

/-- The refusals of the library requests, by the first test that fails, change nothing but the answer: BUSY while an operation is
in hand, BAD_PARAM, PROTECTED, IN_USE, REFUSED_STATE, RESERVED_AREA and EMPTY; the setup page's requests are REFUSED_STATE
outside STANDBY before that. -/
def Obligations.LibraryRequestsAreRefused : Prop :=
  (∀ (s : State) (sv : Service) (src : NodeId) (slot page offset count : Byte), s.pl.op.isSome = true →
    (Serving s sv (.commitPage src slot page) → exec (.commitPage src slot page) s = .next (answer sv .busy [] s)) ∧
    (Serving s sv (.eraseSlot src slot) → exec (.eraseSlot src slot) s = .next (answer sv .busy [] s)) ∧
    (Serving s sv (.closeSlot src slot) → exec (.closeSlot src slot) s = .next (answer sv .busy [] s)) ∧
    (Serving s sv (.readLibrary src slot page offset count) →
      exec (.readLibrary src slot page offset count) s = .next (answer sv .busy [] s)) ∧
    (s.rc.state = .standby →
      (Serving s sv (.writeSetup src) → exec (.writeSetup src) s = .next (answer sv .busy [] s)) ∧
      (Serving s sv (.reloadSetup src) → exec (.reloadSetup src) s = .next (answer sv .busy [] s)))) ∧
  (∀ (s : State) (sv : Service) (src : NodeId), s.rc.state ≠ .standby →
    (Serving s sv (.writeSetup src) → exec (.writeSetup src) s = .next (answer sv .refusedState [] s)) ∧
    (Serving s sv (.reloadSetup src) → exec (.reloadSetup src) s = .next (answer sv .refusedState [] s))) ∧
  (∀ (s : State) (sv : Service) (src : NodeId) (slot page offset count : Byte), s.pl.op = none →
    (Serving s sv (.commitPage src slot page) → 31 < slot.toNat ∨ 15 < page.toNat →
      exec (.commitPage src slot page) s = .next (answer sv .badParam [] s)) ∧
    (Serving s sv (.eraseSlot src slot) → 31 < slot.toNat →
      exec (.eraseSlot src slot) s = .next (answer sv .badParam [] s)) ∧
    (Serving s sv (.closeSlot src slot) → 31 < slot.toNat →
      exec (.closeSlot src slot) s = .next (answer sv .badParam [] s)) ∧
    (Serving s sv (.readLibrary src slot page offset count) →
      31 < slot.toNat ∨ 15 < page.toNat ∨ count.toNat < 1 ∨ 20 < count.toNat →
      exec (.readLibrary src slot page offset count) s = .next (answer sv .badParam [] s))) ∧
  (∀ (s : State) (sv : Service) (src : NodeId) (slot page : Byte), s.pl.op = none → slot.toNat ≤ 31 → page.toNat ≤ 15 →
    (hasBit s.st.working.protect slot.toNat = true →
      (Serving s sv (.commitPage src slot page) → exec (.commitPage src slot page) s = .next (answer sv .isProtected [] s)) ∧
      (Serving s sv (.eraseSlot src slot) → exec (.eraseSlot src slot) s = .next (answer sv .isProtected [] s)) ∧
      (Serving s sv (.closeSlot src slot) → exec (.closeSlot src slot) s = .next (answer sv .isProtected [] s))) ∧
    (hasBit s.st.working.protect slot.toNat = false →
      (slotInUse s.queue slot.toNat = true →
        (Serving s sv (.commitPage src slot page) → exec (.commitPage src slot page) s = .next (answer sv .inUse [] s)) ∧
        (Serving s sv (.eraseSlot src slot) → exec (.eraseSlot src slot) s = .next (answer sv .inUse [] s))) ∧
      (tableEntry s.pl.table slot.toNat ≠ some .opened → Serving s sv (.closeSlot src slot) →
        exec (.closeSlot src slot) s = .next (answer sv .refusedState [] s)))) ∧
  ∀ (s : State) (sv : Service) (src : NodeId) (slot page : Byte), s.pl.op = none → slot.toNat ≤ 31 → page.toNat ≤ 15 →
    hasBit s.st.working.protect slot.toNat = false → slotInUse s.queue slot.toNat = false →
    Serving s sv (.commitPage src slot page) →
    (tableEntry s.pl.table slot.toNat ≠ some .empty → tableEntry s.pl.table slot.toNat ≠ some .opened →
      exec (.commitPage src slot page) s = .next (answer sv .refusedState [] s)) ∧
    (tableEntry s.pl.table slot.toNat = some .empty ∨ tableEntry s.pl.table slot.toNat = some .opened → page = 0 →
      (∃ c ∈ s.pl.pageBuffer, 16 ≤ c.1 ∧ c.1 ≤ 31) →
      exec (.commitPage src slot page) s = .next (answer sv .reservedArea [] s)) ∧
    (tableEntry s.pl.table slot.toNat = some .empty → s.pl.pageBuffer = [] →
      exec (.commitPage src slot page) s = .next (answer sv .empty [] s))

/-! ### Requests that read -/

/-- The requests that read are answered, and nothing but the answer's place changes; what status, outcome, queue, orders,
history, cuts, roles and settings carry. READ ORDER's tag is looked up before its part is tested (log 32). -/
def Obligations.ReadsCarryState : Prop :=
  (∀ (s : State) (sv : Service) (src : NodeId) (tag : Word16) (x : Byte) (c : Instr),
    c ∈ [Instr.readOutcome src, .readQueue src, .readOrder src tag x, .readStatus src x, .readCounters src x,
      .readHistory src x, .cutQuery src, .readSetting src x, .readTable src] →
    Serving s sv c → ∃ status params, exec c s = .next (answer sv status params s)) ∧
  ∀ (s : State) (sv : Service) (src : NodeId),
    (Serving s sv (.readStatus src 0) → exec (.readStatus src 0) s = .next (answer sv .ok
      ([s.rc.state.code] ++ octets16 s.rc.causes ++ [s.rc.flagOctet, s.sx.state.code] ++ octet s.queue.length ++
        octet s.sw.ring.length ++ octets32 s.sw.oldest ++ octets32 s.sw.headNext ++ octets32 s.sw.feedNext ++
        octets32 s.wt.web ++ octetsInt16 s.wt.lateral) s)) ∧
    (Serving s sv (.readStatus src 1) → exec (.readStatus src 1) s = .next (answer sv .ok
      (octets32 s.gh.broken ++ octets32 s.gh.parked ++ (match s.rc.openCopy with
        | none => [0, 0, 0, 0]
        | some (tag, copy) => 1 :: octets16 tag ++ octet copy)) s)) ∧
    (Serving s sv (.readStatus src 2) → s.pl.table.length = 32 → ∃ slots : List Byte,
      exec (.readStatus src 2) s = .next (answer sv .ok
        ([s.pl.state.code, BitVec.ofNat 8 (s.pl.failFlag.toNat + 2 * s.st.defaults.toNat)] ++ slots) s) ∧
      slots.length = 8 ∧ ∀ slot e, tableEntry s.pl.table slot = some e → ∃ x, slots[slot / 4]? = some x ∧
        x.toNat / 4 ^ (3 - slot % 4) % 4 = e.code) ∧
    (∀ part : Byte, Serving s sv (.readStatus src part) → 2 < part.toNat →
      exec (.readStatus src part) s = .next (answer sv .badParam [] s)) ∧
    (Serving s sv (.readOutcome src) →
      (s.pl.outcome = none → exec (.readOutcome src) s =
        .next (answer sv .ok [s.pl.state.code, boolOctet s.pl.failFlag] s)) ∧
      ∀ r, s.pl.outcome = some r → exec (.readOutcome src) s =
        .next (answer sv .ok ([s.pl.state.code, boolOctet s.pl.failFlag] ++ r.octets) s)) ∧
    (Serving s sv (.readQueue src) →
      (s.queue = [] → exec (.readQueue src) s = .next (answer sv .ok [0] s)) ∧
      ∀ o rest, s.queue = o :: rest → exec (.readQueue src) s =
        .next (answer sv .ok (octet s.queue.length ++ (s.queue.flatMap fun x => octets16 x.tag) ++
          (octet o.copiesEnded ++ octet o.copiesLeft ++ [boolOctet (o.isOpen s.sw.ring s.rc.openCopy)])) s)) ∧
    (∀ tag part, Serving s sv (.readOrder src tag part) → findOrder s.queue tag = none →
      exec (.readOrder src tag part) s = .next (answer sv .notFound [] s)) ∧
    (∀ tag (part : Byte), Serving s sv (.readOrder src tag part) → (findOrder s.queue tag).isSome = true →
      1 < part.toNat → exec (.readOrder src tag part) s = .next (answer sv .badParam [] s)) ∧
    (∀ before (o : Order) behind, s.queue = before ++ o :: behind → (∀ x ∈ before, x.tag ≠ o.tag) →
      Serving s sv (.readOrder src o.tag 0) →
      exec (.readOrder src o.tag 0) s = .next (answer sv .ok (octets16 o.tag ++ octet o.slot ++ octetsNat16 o.length ++
        octetsNat16 o.gap ++ [if o.mode = .whole then 0 else 1] ++ octet (o.stitch.getD 255) ++ octetsNat16 o.start ++
        octets32 o.groups ++ octet (o.tackCount.getD 255) ++ octet (o.tackLength.getD 255) ++ octet o.copies ++
        octet (before.length + 1)) s)) ∧
    (∀ tag o, Serving s sv (.readOrder src tag 1) → findOrder s.queue tag = some o →
      exec (.readOrder src tag 1) s = .next (answer sv .ok (octet o.copies ++ octet o.copyLimit ++ octet o.copiesEnded ++
        octet o.copiesLeft ++ [boolOctet o.willClip] ++ octet (o.copiesEnded + 1) ++ octets16 o.clipped ++
        octets16 o.skipped ++ octets16 o.rewinds ++ [boolOctet o.spliceLate] ++
        octets16 (pendingMap (o.copiesEnded + 1) o.pendingLate)) s)) ∧
    (∀ age : Byte, Serving s sv (.readHistory src age) →
      (63 < age.toNat → exec (.readHistory src age) s = .next (answer sv .badParam [] s)) ∧
      (age.toNat ≤ 63 → s.gh.history.length ≤ age.toNat → exec (.readHistory src age) s =
        .next (answer sv .ok (octet s.gh.history.length ++ octet s.gh.rewindable) s)) ∧
      ∀ e, age.toNat ≤ 63 → age.toNat < s.gh.history.length → s.gh.history.reverse[age.toNat]? = some e →
        exec (.readHistory src age) s =
          .next (answer sv .ok (octet s.gh.history.length ++ octet s.gh.rewindable ++ e.octets) s)) ∧
    (Serving s sv (.cutQuery src) →
      (s.wt.cuts = [] → exec (.cutQuery src) s = .next (answer sv .empty (octet s.wt.reservations.length) s)) ∧
      ∀ e rest, s.wt.cuts = e :: rest → exec (.cutQuery src) s =
        .next (answer sv .ok (octet s.wt.cuts.length ++ octet s.wt.reservations.length ++ e.octets) s)) ∧
    (Serving s sv (.readTable src) → exec (.readTable src) s = .next (answer sv .ok (octet s.st.working.roles.length ++
      s.st.working.roles.flatMap fun e => [BitVec.ofNat 8 e.node, e.role.code]) s)) ∧
    ∀ code : Byte, Serving s sv (.readSetting src code) →
      (∀ w, settingWidth code = some w →
        exec (.readSetting src code) s = .next (answer sv .ok (octetsOfWidth w (s.st.working.value code)) s)) ∧
      (code = 0 ∨ 0x12 < code.toNat → exec (.readSetting src code) s = .next (answer sv .badParam [] s))

/-- R119: READ COUNTERS answers the first index and up to six counters from it; an index above 13 is BAD_PARAM. CLEAR COUNTERS
sets all 14 to 0. Neither changes anything else. -/
def Obligations.CountersReadAndCleared : Prop :=
  ∀ (s : State) (sv : Service) (src : NodeId) (first : Byte),
    (Serving s sv (.readCounters src first) → first.toNat ≤ 13 → ∃ params : List Word32,
      exec (.readCounters src first) s = .next (answer sv .ok (first :: params.flatMap octets32) s) ∧
      params.length = min (first.toNat + 5) 13 - first.toNat + 1 ∧
      ∀ i, i < params.length → params[i]? = s.allCounters[first.toNat + i]?) ∧
    (Serving s sv (.readCounters src first) → 13 < first.toNat →
      exec (.readCounters src first) s = .next (answer sv .badParam [] s)) ∧
    (Serving s sv (.clearCounters src) → Leaves (exec (.clearCounters src) s) fun t =>
      t.allCounters = List.replicate 14 0 ∧
      t = ((answer sv .ok [] s).setRc { s.rc with counters := .zero }).setLp
        { (answer sv .ok [] s).lp with counters := .zero })

/-! ### The Panel Queue -/

/-- An ENQUEUE that passes the tests of R42 puts the order at the tail, with its fields clamped and rounded as R43 gives and
fresh runtime values; it is answered with position, will-clip and changed fields, OK where none was changed and OK_CLAMPED
otherwise. One that fails a test is answered by the first that fails, and changes nothing else. -/
def Obligations.EnqueueJoinsTail : Prop :=
  ∀ (s : State) (sv : Service) (src : NodeId) (tag : Word16) (slot : Byte) (length gap : Word16) (mode stitch : Byte)
    (start : Word16) (groups : Word32) (tackCount tackLength copies : Byte),
    Serving s sv (.enqueue src tag slot length gap mode stitch start groups tackCount tackLength copies) →
    let run := exec (.enqueue src tag slot length gap mode stitch start groups tackCount tackLength copies) s
    (tag = 0 ∨ 31 < slot.toNat ∨ length.toNat < 100 ∨ 40000 < length.toNat ∨ 1 < mode.toNat ∨ groups = 0 ∨ copies = 0 →
      run = .next (answer sv .badParam [] s)) ∧
    (tag ≠ 0 → slot.toNat ≤ 31 → 100 ≤ length.toNat → length.toNat ≤ 40000 → (mode = 0 ∨ mode = 1) → groups ≠ 0 →
      copies ≠ 0 →
      (8 ≤ s.queue.length → run = .next (answer sv .full [] s)) ∧
      (s.queue.length < 8 → (findOrder s.queue tag).isSome = true → run = .next (answer sv .duplicate [] s)) ∧
      (s.queue.length < 8 → findOrder s.queue tag = none →
        (∀ info, tableEntry s.pl.table slot.toNat ≠ some (.closed info)) → run = .next (answer sv .notClosed [] s)) ∧
      (∀ info, s.queue.length < 8 → findOrder s.queue tag = none →
        tableEntry s.pl.table slot.toNat = some (.closed info) →
        (info.reverse = true → s.st.working.yRev = 0 → run = .next (answer sv .patternUnfit [] s)) ∧
        ((info.reverse = true → s.st.working.yRev ≠ 0) → Leaves run fun t =>
          ∃ o, t.queue = s.queue ++ [o] ∧ o.tag = tag ∧ o.slot = slot.toNat ∧ o.length = length.toNat ∧
            o.gap = min gap.toNat 2000 ∧ o.mode = (if mode = 0 then .whole else .truncate) ∧
            o.stitch = (if stitch = 0xFF then none else some (max 10 (min stitch.toNat 100))) ∧
            o.start = min start.toNat s.st.working.travel ∧ o.groups = groups ∧
            o.tackCount = (if tackCount = 0xFF then none else some (min 6 (tackCount.toNat - tackCount.toNat % 2))) ∧
            o.tackLength = (if tackLength = 0xFF then none else some (max 1 (min tackLength.toNat 20))) ∧
            o.copies = copies.toNat ∧ o.copyLimit = copies.toNat ∧ o.copiesEnded = 0 ∧
            (o.willClip = true ↔ (o.start : Int) + info.xMin < 0 ∨ s.st.working.travel < o.start + info.xMax) ∧
            o.clipped = 0 ∧ o.skipped = 0 ∧ o.rewinds = 0 ∧ o.spliceLate = false ∧ o.pendingLate = [] ∧
            t.sw = s.sw ∧ t.wt = s.wt ∧ t.gh = s.gh ∧ t.st = s.st ∧
            ∃ changed : Byte, t.lp.general = (answer sv (if changed = 0 then .ok else .okClamped)
                [BitVec.ofNat 8 (s.queue.length + 1), boolOctet o.willClip, changed] s).lp.general ∧
              changed.getLsbD 0 = decide (2000 < gap.toNat) ∧
              changed.getLsbD 1 = decide (stitch ≠ 0xFF ∧ (stitch.toNat < 10 ∨ 100 < stitch.toNat)) ∧
              changed.getLsbD 2 = decide (s.st.working.travel < start.toNat) ∧
              changed.getLsbD 3 = decide (tackCount ≠ 0xFF ∧ (tackCount.toNat % 2 = 1 ∨ 6 < tackCount.toNat)) ∧
              changed.getLsbD 4 = decide (tackLength ≠ 0xFF ∧ (tackLength.toNat < 1 ∨ 20 < tackLength.toNat)) ∧
              ∀ i, 5 ≤ i → changed.getLsbD i = false)))

/-- CANCEL of an order whose current copy is not open removes it; of one whose current copy is open, and which the expander's
context names, it sets copy_limit to the context's copy; of a tag that is not queued it changes nothing. -/
def Obligations.CancelRemovesOrTrims : Prop :=
  ∀ (s : State) (sv : Service) (src : NodeId) (tag : Word16), Serving s sv (.cancel src tag) →
    (findOrder s.queue tag = none → exec (.cancel src tag) s = .next (answer sv .notFound [] s)) ∧
    (∀ o, findOrder s.queue tag = some o → o.isOpen s.sw.ring s.rc.openCopy = false →
      Leaves (exec (.cancel src tag) s) fun t =>
        t.queue = s.queue.filter (fun x => x.tag != tag) ∧ t.sw = s.sw ∧ t.wt = s.wt ∧ t.gh = s.gh ∧ t.st = s.st ∧
        t.lp.general = (answer sv .ok [] s).lp.general) ∧
    (∀ o, findOrder s.queue tag = some o → o.isOpen s.sw.ring s.rc.openCopy = true →
      s.sx.context.tag = some tag → ∀ copy, s.sx.context.copy = some copy →
      exec (.cancel src tag) s = .next (answer sv .trimmed (octet copy ++ octet (copy - o.copiesEnded))
        (s.setQueue (s.queue.map fun x => if x.tag == tag then { x with copyLimit := copy } else x))))

/-! ### The Stitch Window -/

/-- A take of the cursor's serial, the lead below the limit and the record in the window, is served: the record is taken, the
head drive's take fixes the effective set (planned less parked, none in a splice zone), the cursor moves on; nothing else
changes. -/
def Obligations.TakeIsServed : Prop :=
  ∀ (s : State) (sv : Service) (src : NodeId) (r : Record), s.rc.state ≠ .standby → r.serial ≠ 0 →
    s.sw.find r.serial = some r → liesBefore r.serial s.sw.oldest = false →
    (Serving s sv (.takeHead src r.serial) → r.serial = s.sw.headNext → s.sw.lead .head < s.sw.leadLimit →
      exec (.takeHead src r.serial) s =
        (let skip := (r.kind = .sew ∨ r.kind = .tack) ∧ ∃ z ∈ s.wt.zones, z.holds r.web = true
         let effective : Word32 := if skip then 0 else r.planned &&& ~~~s.gh.parked
         let r' : Record := { r with
           takenHead := true
           effective := some effective
           flags := { r.flags with skipped := r.flags.skipped || decide skip } }
         .next (answer sv .ok (octets32 r.serial ++ [r.kind.code] ++ octetsInt16 r.dx ++ octetsInt16 r.lateral ++
             octets32 effective ++ [r'.flags.octet] ++ octets16 r.tag)
           (s.setSw { s.sw with
             ring := s.sw.ring.map fun x => if x.serial == r.serial then r' else x
             headNext := nextSerial s.sw.headNext })))) ∧
    (Serving s sv (.takeFeed src r.serial) → r.serial = s.sw.feedNext → s.sw.lead .feed < s.sw.leadLimit →
      exec (.takeFeed src r.serial) s =
        .next (answer sv .ok (octets32 r.serial ++ [r.kind.code] ++ octetsInt16 r.dy ++ octets32 r.web ++
            [({ r.flags with skipped := false } : RecordFlags).octet] ++ octets16 r.tag)
          (s.setSw { s.sw with
            ring := s.sw.ring.map fun x => if x.serial == r.serial then { r with takenFeed := true } else x
            feedNext := nextSerial s.sw.feedNext })))

/-- The cases in which a take of the head drive or the feed drive is not served change nothing but the answer: STANDBY, serial 0,
a serial before the oldest, a full lead, a record not yet made, a serial after the cursor; a retake returns the record again. -/
def Obligations.TakesNotServedChangeNothing : Prop :=
  (∀ (s : State) (sv : Service) (src : NodeId) (serial : Word32), Serving s sv (.takeHead src serial) →
    (s.rc.state = .standby → exec (.takeHead src serial) s = .next (answer sv .refusedState [] s)) ∧
    (s.rc.state ≠ .standby → serial = 0 → exec (.takeHead src serial) s = .next (answer sv .badParam [] s)) ∧
    (s.rc.state ≠ .standby → serial ≠ 0 →
      (liesBefore serial s.sw.oldest = true →
        exec (.takeHead src serial) s = .next (answer sv .gone (octets32 s.sw.oldest) s)) ∧
      (liesBefore serial s.sw.oldest = false →
        (∀ r, liesBefore serial s.sw.headNext = true → s.sw.find serial = some r →
          exec (.takeHead src serial) s = .next (answer sv .okRepeat (octets32 r.serial ++ [r.kind.code] ++
            octetsInt16 r.dx ++ octetsInt16 r.lateral ++ octets32 (r.effective.getD 0) ++ [r.flags.octet] ++
            octets16 r.tag) s)) ∧
        (serial = s.sw.headNext →
          (s.sw.leadLimit ≤ s.sw.lead .head →
            exec (.takeHead src serial) s = .next (answer sv .notReady (1 :: octets32 s.sw.oldest) s)) ∧
          (s.sw.lead .head < s.sw.leadLimit → s.sw.find serial = none →
            exec (.takeHead src serial) s = .next (answer sv .notReady (2 :: octets32 s.sw.oldest) s))) ∧
        (liesBefore serial s.sw.headNext = false → serial ≠ s.sw.headNext →
          exec (.takeHead src serial) s = .next (answer sv .outOfSequence (octets32 s.sw.headNext) s))))) ∧
  ∀ (s : State) (sv : Service) (src : NodeId) (serial : Word32), Serving s sv (.takeFeed src serial) →
    (s.rc.state = .standby → exec (.takeFeed src serial) s = .next (answer sv .refusedState [] s)) ∧
    (s.rc.state ≠ .standby → serial = 0 → exec (.takeFeed src serial) s = .next (answer sv .badParam [] s)) ∧
    (s.rc.state ≠ .standby → serial ≠ 0 →
      (liesBefore serial s.sw.oldest = true →
        exec (.takeFeed src serial) s = .next (answer sv .gone (octets32 s.sw.oldest) s)) ∧
      (liesBefore serial s.sw.oldest = false →
        (∀ r, liesBefore serial s.sw.feedNext = true → s.sw.find serial = some r →
          exec (.takeFeed src serial) s = .next (answer sv .okRepeat (octets32 r.serial ++ [r.kind.code] ++
            octetsInt16 r.dy ++ octets32 r.web ++ [({ r.flags with skipped := false } : RecordFlags).octet] ++
            octets16 r.tag) s)) ∧
        (serial = s.sw.feedNext →
          (s.sw.leadLimit ≤ s.sw.lead .feed →
            exec (.takeFeed src serial) s = .next (answer sv .notReady (1 :: octets32 s.sw.oldest) s)) ∧
          (s.sw.lead .feed < s.sw.leadLimit → s.sw.find serial = none →
            exec (.takeFeed src serial) s = .next (answer sv .notReady (2 :: octets32 s.sw.oldest) s))) ∧
        (liesBefore serial s.sw.feedNext = false → serial ≠ s.sw.feedNext →
          exec (.takeFeed src serial) s = .next (answer sv .outOfSequence (octets32 s.sw.feedNext) s))))

/-- REPORT MOVED of a REPOSITION record that the requesting drive has taken: the first drive's report sets its flag; the second one
retires the record, with positions moved, the barrier after the newest entry, no history entry and no stitch counted. A serial of
no record, of another kind or of one not taken is OUT_OF_SEQUENCE with the drive's cursor; STANDBY and serial 0 refuse. That serial
0 in STANDBY is REFUSED_STATE is the model's choice (log 38). -/
def Obligations.ReportMovedRetiresReposition : Prop :=
  ∀ (s : State) (sv : Service) (src : NodeId) (d : Drive), sv.role = (if d = .head then .head else .feed) →
    (∀ (r : Record) (rest : List Record), s.rc.state ≠ .standby → r.serial ≠ 0 →
      Serving s sv (.reportMoved src r.serial) → s.sw.ring = r :: rest → r.kind = .reposition →
      (if d = .head then r.takenHead else r.takenFeed) = true →
      ((if d = .head then r.movedFeed else r.movedHead) = false → Leaves (exec (.reportMoved src r.serial) s) fun t =>
        t = (s.setSw { s.sw with ring := s.sw.ring.map fun x =>
          if x.serial == r.serial then
            (if d = .head then { r with movedHead := true } else { r with movedFeed := true })
          else x }).setLp (answer sv .ok [0] s).lp) ∧
      ((if d = .head then r.movedFeed else r.movedHead) = true → s.sw.waiting = [] → (∀ x ∈ rest, x.serial ≠ r.serial) →
        Leaves (exec (.reportMoved src r.serial) s) fun t =>
          t.sw = { s.sw with ring := rest } ∧ t.wt.web = s.wt.web + BitVec.ofInt 32 r.dy ∧ t.wt.lateral = r.lateral ∧
          t.gh = { s.gh with rewindable := 0 } ∧ t.queue = s.queue ∧ t.sx.checkpoint = s.sx.checkpoint ∧
          t.rc.counters.stitches = s.rc.counters.stitches ∧ t.rc.openCopy = some (r.tag, r.copy) ∧
          t.lp.general = (answer sv .ok [1] s).lp.general)) ∧
    ∀ serial, Serving s sv (.reportMoved src serial) →
      (s.rc.state = .standby → exec (.reportMoved src serial) s = .next (answer sv .refusedState [] s)) ∧
      (s.rc.state ≠ .standby → serial = 0 → exec (.reportMoved src serial) s = .next (answer sv .badParam [] s)) ∧
      (s.rc.state ≠ .standby → serial ≠ 0 →
        (∀ r, s.sw.find serial = some r →
          r.kind ≠ .reposition ∨ (if d = .head then r.takenHead else r.takenFeed) = false) →
        exec (.reportMoved src serial) s = .next (answer sv .outOfSequence
          (octets32 (if d = .head then s.sw.headNext else s.sw.feedNext)) s))

/-! ### Run Control's requests -/

/-- An accepted START: the end-requested flag is cleared, the lead limit loaded, both cursors at the counter, the barrier after
the newest entry, the head order taken up at its current copy from the retired positions, with the checkpoint at that copy's
start; PRIMING is entered and announced. The tests of START in their order, each with its answer; a START they refuse changes
nothing else. -/
def Obligations.StartBeginsRun : Prop :=
  (∀ (s : State) (sv : Service) (src : NodeId) (o : Order) (rest : List Order) (info : SlotInfo),
    Serving s sv (.start src) → s.rc.state = .standby → s.queue = o :: rest → s.gh.broken = 0 →
    holdsRole s.st.working.roles .head = true → holdsRole s.st.working.roles .feed = true → ReverseFeedServed s →
    s.rc.causes = 0 → s.rc.holdSeen = false → tableEntry s.pl.table o.slot = some (.closed info) → s.sw.ring = [] →
    1 ≤ s.st.working.primeDepth → 100 ≤ o.length →
    Leaves (exec (.start src) s) fun t =>
      t.rc.endRequested = false ∧ t.sw = { s.sw with
        leadLimit := s.st.working.leadLimit
        headNext := s.sw.counter
        feedNext := s.sw.counter } ∧
      t.gh = { s.gh with rewindable := 0 } ∧ t.wt = s.wt ∧ t.queue = s.queue ∧ t.st = s.st ∧
      (∃ c, t.sx.checkpoint = some c ∧ c.tag = some o.tag ∧ c.copy = some (o.copiesEnded + 1) ∧ c.phase = .leadIn ∧
        c.intended = s.wt.lateral ∧ c.web = s.wt.web ∧ c.panelStart = s.wt.web ∧ c.panelY = 0 ∧ c.seam = false ∧
        c.mask = BitVec.allOnes 32 ∧ c.cutMark = none ∧ c.stitch = o.stitch.getD info.stitch ∧
        c.tackCount = o.tackCount.getD s.st.working.defTackCount ∧
        c.tackLength = o.tackLength.getD s.st.working.defTackLength) ∧
      t.rc.state = .priming ∧ t.lp.general = (answer sv .ok [] s).lp.general ∧
      (t.lp.statePlace.map OutFrame.params) = some ([1, 0, 0, 0] ++ octets32 s.sw.counter ++ [1, 0xFF])) ∧
  ∀ (s : State) (sv : Service) (src : NodeId), Serving s sv (.start src) →
    (s.rc.state ≠ .standby → exec (.start src) s = .next (answer sv .refusedState [] s)) ∧
    (s.rc.state = .standby → s.queue = [] → exec (.start src) s = .next (answer sv .empty [] s)) ∧
    (s.rc.state = .standby → s.queue ≠ [] → s.gh.broken ≠ 0 →
      exec (.start src) s = .next (answer sv .brokenGroups (octets32 s.gh.broken) s)) ∧
    (s.rc.state = .standby → s.queue ≠ [] → s.gh.broken = 0 →
      (holdsRole s.st.working.roles .head = false ∨ holdsRole s.st.working.roles .feed = false) →
      exec (.start src) s = .next (answer sv .noDrives [] s)) ∧
    (s.rc.state = .standby → s.gh.broken = 0 → holdsRole s.st.working.roles .head = true →
      holdsRole s.st.working.roles .feed = true →
      (∀ before (o : Order) behind info, s.st.working.yRev = 0 → s.queue = before ++ o :: behind →
        tableEntry s.pl.table o.slot = some (.closed info) → info.reverse = true →
        (∀ x ∈ before, ∀ i, tableEntry s.pl.table x.slot = some (.closed i) → i.reverse = false) →
        exec (.start src) s = .next (answer sv .patternUnfit (octets16 o.tag) s)) ∧
      (s.queue ≠ [] → ReverseFeedServed s →
        (s.rc.causes ≠ 0 → exec (.start src) s = .next (answer sv .causesPending (octets16 s.rc.causes) s)) ∧
        (s.rc.causes = 0 → s.rc.holdSeen = true → exec (.start src) s = .next (answer sv .held [] s))))

/-- STOP in PRIMING or RUN raises SUPERVISOR_STOP, which enters HALTING, and is answered OK (R111); the entry drives HOLD, starts
the timer and announces STATE (R99, R120), and that the seen level is asserted with the drive is log 16's reading of R107. In
HALTING or HALTED STOP is answered OK and changes nothing; in STANDBY it is REFUSED_STATE. -/
def Obligations.StopHaltsAtOnce : Prop :=
  ∀ (s : State) (sv : Service) (src : NodeId), Serving s sv (.stop src) →
    (s.rc.state = .priming ∨ s.rc.state = .run → Leaves (exec (.stop src) s) fun t =>
      t.rc = { s.rc with
        state := .halting
        causes := s.rc.causes ||| 0x0080
        holdDriven := true
        holdSeen := true
        silence := some s.st.working.stopSilence } ∧
      t = (s.setRc t.rc).setLp t.lp ∧ t.lp.general = (answer sv .ok [] s).lp.general ∧
      (t.lp.statePlace.map OutFrame.params) =
        some (3 :: octets16 (s.rc.causes ||| 0x0080) ++ [boolOctet s.rc.endRequested] ++ octets32 s.sw.oldest ++ [3, 7])) ∧
    (s.rc.state = .halting ∨ s.rc.state = .halted → exec (.stop src) s = .next (answer sv .ok [] s)) ∧
    (s.rc.state = .standby → exec (.stop src) s = .next (answer sv .refusedState [] s))

/-- END RUN outside STANDBY sets the end-requested flag and is answered OK; in STANDBY it is REFUSED_STATE. -/
def Obligations.EndRunSetsFlag : Prop :=
  ∀ (s : State) (sv : Service) (src : NodeId), Serving s sv (.endRun src) →
    (s.rc.state ≠ .standby → Leaves (exec (.endRun src) s) fun t =>
      t.rc.endRequested = true ∧ t.rc.causes = s.rc.causes ∧ t.queue = s.queue ∧ t.sw = s.sw ∧ t.gh = s.gh ∧
      t.wt = s.wt ∧ t.st = s.st ∧ t.lp.general = (answer sv .ok [] s).lp.general) ∧
    (s.rc.state = .standby → exec (.endRun src) s = .next (answer sv .refusedState [] s))

/-- RESUME in HALTED with no cause and no REPOSITION record releases HOLD and waits for its settle; pending causes and a
standing REPOSITION record refuse it. At the settle's end HOLD still seen asserted drives HOLD again and adds HOLD_EXTERNAL
(HELD); a cause raised meanwhile drives it again (CAUSES_PENDING); else RUN is entered with at least prime depth records in the
window, and PRIMING with fewer, which then passes to RUN or ends at once where its tests say so. That the settle's end is a command
is log 6's form, and that the seen level is asserted with the drive is log 16's reading of R106 and R107. -/
def Obligations.ResumeTakesSettle : Prop :=
  (∀ (s : State) (sv : Service) (src : NodeId), Serving s sv (.resume src) →
    (s.rc.state = .halted → s.rc.causes = 0 → (∀ r ∈ s.sw.ring, r.kind ≠ .reposition) →
      exec (.resume src) s = .next ((s.setRc { s.rc with holdDriven := false }).serviceWaits sv .settle)) ∧
    (s.rc.state = .halted → s.rc.causes ≠ 0 →
      exec (.resume src) s = .next (answer sv .causesPending (octets16 s.rc.causes) s)) ∧
    (s.rc.state = .halted → s.rc.causes = 0 → ∀ r rest, s.sw.ring = r :: rest → r.kind = .reposition →
      exec (.resume src) s = .next (answer sv .repositionPending (octets32 r.serial) s)) ∧
    (s.rc.state ≠ .halted → exec (.resume src) s = .next (answer sv .refusedState [] s))) ∧
  ∀ (s : State) (sv : Service), s.ready = true → s.lp.service = some sv → sv.phase = .settle → s.rc.state = .halted →
    (s.rc.holdSeen = true → exec .resumeSettleEnd s = .next (answer sv .held []
      (s.setRc { s.rc with holdDriven := true, holdSeen := true, causes := s.rc.causes ||| 0x0040 }))) ∧
    (s.rc.holdSeen = false → s.rc.causes ≠ 0 → exec .resumeSettleEnd s =
      .next (answer sv .causesPending (octets16 s.rc.causes)
        (s.setRc { s.rc with holdDriven := true, holdSeen := true }))) ∧
    (s.rc.holdSeen = false → s.rc.causes = 0 → s.sw.ring ≠ [] → s.st.working.primeDepth ≤ s.sw.ring.length →
      Leaves (exec .resumeSettleEnd s) fun t =>
        t.rc.state = .run ∧ t.rc.holdDriven = s.rc.holdDriven ∧ t.sw = s.sw ∧ t.queue = s.queue ∧
        t.lp.general = (answer sv .ok [2] s).lp.general ∧ (t.lp.statePlace.map OutFrame.params) =
          some ([2, 0, 0, boolOctet s.rc.endRequested] ++ octets32 s.sw.oldest ++ [6, 0xFF])) ∧
    (s.rc.holdSeen = false → s.rc.causes = 0 → s.sw.ring.length < s.st.working.primeDepth →
      (s.sx.state = .expanding → (∃ i, s.plan = .need i) → Leaves (exec .resumeSettleEnd s) fun t =>
        t.rc.state = .priming ∧ t.rc.holdDriven = s.rc.holdDriven ∧ t.sw = s.sw ∧ t.queue = s.queue ∧
        t.lp.general = (answer sv .ok [1] s).lp.general ∧ (t.lp.statePlace.map OutFrame.params) =
          some ([1, 0, 0, boolOctet s.rc.endRequested] ++ octets32 s.sw.oldest ++ [6, 0xFF])) ∧
      (s.sx.state = .holding .queueEmpty ∨ s.sx.state = .holding .endRequested → Leaves (exec .resumeSettleEnd s) fun t =>
        t.rc.holdDriven = s.rc.holdDriven ∧ t.sw = s.sw ∧ t.queue = s.queue ∧
        t.lp.general = (answer sv .ok [1] s).lp.general ∧
        (s.sw.ring ≠ [] → t.rc.state = .run ∧ (t.lp.statePlace.map OutFrame.params) =
          some ([2, 0, 0, boolOctet s.rc.endRequested] ++ octets32 s.sw.oldest ++ [2, 0xFF])) ∧
        (s.sw.ring = [] → t.rc.state = .standby ∧ t.sx.state = .idle ∧ (t.lp.statePlace.map OutFrame.params) =
          some ([0, 0, 0, boolOctet s.rc.endRequested] ++ octets32 s.sw.oldest ++ [7, 0xFF]))))

/-- ABORT in HALTED: the window is discarded with its reservations, both cursors at the counter, every pending list emptied, the
checkpoint, the context's order and the note absent, the expander IDLE, every cause but a standing THREAD_BREAK removed, HOLD
released, STANDBY entered. The copy of the open copy note ends as aborted: the order counts it or leaves the queue, its next copy
begins with accumulators at zero and the flag clear, panels aborted goes up, and PANEL_DONE takes a free place or is dropped and
counted. Every order's splice-late flag is cleared, that of an order the note does not name by the model's reading of R53 (log 36);
the queue is otherwise kept. Elsewhere ABORT is REFUSED_STATE. -/
def Obligations.AbortGivesUpRun : Prop :=
  ∀ (s : State) (sv : Service) (src : NodeId), Serving s sv (.abort src) →
    (s.rc.state = .halted → Leaves (exec (.abort src) s) fun t =>
      t.sw = { s.sw with ring := [], waiting := [], headNext := s.sw.counter, feedNext := s.sw.counter } ∧
      t.rc.state = .standby ∧ t.rc.holdDriven = false ∧ t.rc.openCopy = none ∧
      t.rc.causes = (if s.gh.broken = 0 then 0 else s.rc.causes &&& 0x0001) ∧
      t.rc.endRequested = s.rc.endRequested ∧ t.sx.state = .idle ∧ t.sx.checkpoint = none ∧ t.sx.hand = [] ∧
      t.sx.context.tag = none ∧ t.sx.context.copy = none ∧ (∀ o ∈ t.queue, o.spliceLate = false ∧ o.pendingLate = []) ∧
      (∀ x ∈ t.wt.reservations, ∀ r ∈ s.sw.ring, r.serial ≠ x.serial) ∧
      t.gh = s.gh ∧ t.wt.web = s.wt.web ∧ t.wt.lateral = s.wt.lateral ∧ t.wt.cuts = s.wt.cuts ∧ t.wt.zones = s.wt.zones ∧
      (t.lp.statePlace.map OutFrame.params) = some (0 :: octets16 t.rc.causes ++ [boolOctet s.rc.endRequested] ++
        octets32 s.sw.counter ++ [8, 0xFF]) ∧
      (s.rc.openCopy = none → t.queue = (s.queue.map fun x => { x with spliceLate := false, pendingLate := [] }) ∧
        t.rc.counters.aborted = s.rc.counters.aborted ∧ t.lp.general = (answer sv .ok [0, 0, 0] s).lp.general) ∧
      ∀ tag copy o, s.rc.openCopy = some (tag, copy) → findOrder s.queue tag = some o →
        t.rc.counters.aborted = saturatingSucc s.rc.counters.aborted ∧
        (o.copyLimit ≤ o.copiesEnded + 1 →
          t.queue = (s.queue.filter fun x => x.tag != tag).map fun x => { x with spliceLate := false, pendingLate := [] }) ∧
        (o.copiesEnded + 1 < o.copyLimit → t.queue = s.queue.map fun x => if x.tag == tag then { x with
          copiesEnded := x.copiesEnded + 1
          clipped := 0
          skipped := 0
          rewinds := 0
          spliceLate := false
          pendingLate := [] } else { x with spliceLate := false, pendingLate := [] }) ∧
        (let done : OutFrame := ⟨31#5, .announce, 0x81, octets16 tag ++ octet copy ++ [1] ++
            octet (o.copyLimit - (o.copiesEnded + 1)), 2, 0, .none⟩
         let told : OutFrame := ⟨sv.node, .answer, 0x00, octets16 tag ++ octet copy, answerPriority (some sv.role), 0, .none⟩
         (s.lp.placeFree = true → t.lp.general = s.lp.general ++ [done, told] ∧ t.lp.counters = s.lp.counters) ∧
         (s.lp.placeFree = false → t.lp.general = s.lp.general ++ [told] ∧
           t.lp.counters = { s.lp.counters with dropped := saturatingSucc s.lp.counters.dropped }))) ∧
    (s.rc.state ≠ .halted → exec (.abort src) s = .next (answer sv .refusedState [] s))

/-- CLEAR CAUSES removes each named cause, THREAD_BREAK only while no group is broken; bits 9 to 15 are not read; nothing else
changes. -/
def Obligations.ClearCausesRemovesNamed : Prop :=
  ∀ (s : State) (sv : Service) (src : NodeId) (named : Word16), Serving s sv (.clearCauses src named) →
    ∃ left, exec (.clearCauses src named) s = .next (answer sv .ok (octets16 left) (s.setRc { s.rc with causes := left })) ∧
      ∀ i, i < 16 → left.getLsbD i =
        (s.rc.causes.getLsbD i && !(named.getLsbD i && decide (i ≤ 8) && (decide (i ≠ 0) || decide (s.gh.broken = 0))))

/-! ### Groups and History -/

/-- REPORT BREAK adds the groups that are not parked to the broken set; a newly broken group raises THREAD_BREAK in PRIMING, RUN
and HALTING; the answer carries the ignored groups, the broken set and whether the cause was raised. REPORT MENDED, PARK and
UNPARK change the two sets as named and nothing else. An empty group set is BAD_PARAM. -/
def Obligations.GroupSetsChange : Prop :=
  ∀ (s : State) (sv : Service) (src : NodeId) (groups : Word32),
    (Serving s sv (.reportBreak src groups) →
      (groups = 0 → exec (.reportBreak src groups) s = .next (answer sv .badParam [] s)) ∧
      (groups ≠ 0 → Leaves (exec (.reportBreak src groups) s) fun t =>
        t.gh = { s.gh with broken := s.gh.broken ||| (groups &&& ~~~s.gh.parked) } ∧
        t = ((s.setGh t.gh).setRc t.rc).setLp t.lp ∧
        (let newly := groups &&& ~~~s.gh.parked &&& ~~~s.gh.broken
         let raised : Bool := newly != 0 && (s.rc.state == .priming || s.rc.state == .run || s.rc.state == .halting)
         t.lp.general = (answer sv .ok (octets32 (groups &&& s.gh.parked) ++ octets32 t.gh.broken ++ [boolOctet raised])
           s).lp.general ∧
         (raised = false → t.rc = s.rc) ∧
         (raised = true → t.rc.causes = s.rc.causes ||| 0x0001 ∧ t.rc.state = .halting)))) ∧
    (Serving s sv (.reportMended src groups) →
      (groups = 0 → exec (.reportMended src groups) s = .next (answer sv .badParam [] s)) ∧
      (groups ≠ 0 → exec (.reportMended src groups) s = .next (answer sv .ok (octets32 (s.gh.broken &&& ~~~groups))
        (s.setGh { s.gh with broken := s.gh.broken &&& ~~~groups })))) ∧
    (Serving s sv (.park src groups) →
      (groups = 0 → exec (.park src groups) s = .next (answer sv .badParam [] s)) ∧
      (groups ≠ 0 → exec (.park src groups) s = .next (answer sv .ok
        (octets32 (s.gh.parked ||| groups) ++ octets32 (s.gh.broken &&& ~~~groups) ++ octets32 s.sw.headNext)
        (s.setGh { s.gh with parked := s.gh.parked ||| groups, broken := s.gh.broken &&& ~~~groups })))) ∧
    (Serving s sv (.unpark src groups) →
      (groups = 0 → exec (.unpark src groups) s = .next (answer sv .badParam [] s)) ∧
      (groups ≠ 0 → exec (.unpark src groups) s = .next (answer sv .ok
        (octets32 (s.gh.parked &&& ~~~groups) ++ octets32 s.gh.broken ++ octets32 s.sw.headNext)
        (s.setGh { s.gh with parked := s.gh.parked &&& ~~~groups }))))

/-- BACKSTITCH in HALTED with h rewindable entries: the window holds the REPOSITION record, at which both cursors stand, and
after it, joined or waiting, the REPLAY records of the n' entries, oldest first, and then the carried records, none of them taken;
history, barrier, group sets, causes, positions, cut list and checkpoint stay. The reservations of the discarded records are
released, the expander is rolled back to the checkpoint and goes on from there, and STATE is announced with reason BACKSTITCH. The
answer carries n', the carried number and the REPOSITION's serial and steps. The refusals change nothing. -/
def Obligations.BackstitchPlacesReplay : Prop :=
  ∀ (s : State) (sv : Service) (src : NodeId) (n : Byte), Serving s sv (.backstitch src n) →
    (s.rc.state = .halted → n ≠ 0 → 1 ≤ s.gh.rewindable → s.gh.rewindable ≤ s.gh.history.length →
      Leaves (exec (.backstitch src n) s) fun t =>
        (∃ r rest e, t.sw.ring = r :: rest ∧ r.kind = .reposition ∧ r.serial = s.sw.counter ∧
          s.gh.history[s.gh.history.length - min n.toNat (min 32 s.gh.rewindable)]? = some e ∧
          r.lateral = e.lateral - e.dx ∧ r.dx = r.lateral - s.wt.lateral ∧ r.web = s.wt.web + BitVec.ofInt 32 r.dy ∧
          r.dy = -((s.gh.history.drop (s.gh.history.length - min n.toNat (min 32 s.gh.rewindable))).map HistoryEntry.dy).sum ∧
          r.planned = 0 ∧ r.tag = e.tag ∧ r.copy = e.copy ∧
          ∀ x ∈ rest ++ t.sw.waiting, x.flags.replay = true ∧ x.takenHead = false ∧ x.takenFeed = false ∧
            x.effective = none ∧ x.flags.skipped = false ∧ x.flags.clipped = false ∧ x.context = none) ∧
        (let count := min n.toNat (min 32 s.gh.rewindable)
         let rewound := s.gh.history.drop (s.gh.history.length - count)
         let ofEntry (e : HistoryEntry) : Record :=
           ⟨0, e.kind, e.dx, e.dy, e.lateral, e.web, e.effective, none, e.tag, e.copy,
             ⟨e.flags.first, e.flags.last, false, true, false⟩, false, false, false, false, none⟩
         let left := if (s.sw.ring.head?.map Record.kind) = some .reposition ∨ s.sw.ring = [] then []
           else (s.sw.ring.filter fun r => r.flags.replay) ++ s.sw.waiting
         let carried := left.map fun r : Record => { r with
           serial := 0
           effective := none
           flags := ⟨r.flags.first, r.flags.last, false, true, false⟩
           takenHead := false
           takenFeed := false
           context := none }
         ((t.sw.ring.drop 1 ++ t.sw.waiting).map fun r => { r with serial := 0 }) = rewound.map ofEntry ++ carried ∧
         t.sw.ring.length = min 16 (1 + count + left.length) ∧
         (∀ r, t.sw.ring.head? = some r → t.lp.general = (answer sv (if count < n.toNat then .okClamped else .ok)
           (octet count ++ octet left.length ++ octets32 s.sw.counter ++ octetsInt16 r.dx ++ octetsInt16 r.dy)
           s).lp.general) ∧
         t.queue = match s.rc.openCopy with
           | none => s.queue
           | some (tag, copy) => s.queue.map fun o => if o.tag == tag then
               (if o.copiesEnded + 1 = copy then { o with rewinds := saturatingSucc o.rewinds } else o) else o) ∧
        t.sw.headNext = s.sw.counter ∧ t.sw.feedNext = s.sw.counter ∧
        t.gh = s.gh ∧ t.rc.state = .halted ∧ t.rc.causes = s.rc.causes ∧ t.rc.holdDriven = s.rc.holdDriven ∧
        t.wt.web = s.wt.web ∧ t.wt.lateral = s.wt.lateral ∧ t.wt.cuts = s.wt.cuts ∧ t.wt.zones = s.wt.zones ∧
        t.sx.checkpoint = s.sx.checkpoint ∧
        (∀ x, x ∈ t.wt.reservations ↔ x ∈ s.wt.reservations ∧ ∀ r ∈ s.sw.ring, r.serial ≠ x.serial) ∧
        (t.lp.statePlace.map OutFrame.params) = some (4 :: octets16 s.rc.causes ++ [boolOctet s.rc.endRequested] ++
          octets32 s.sw.counter ++ [9, 0xFF]) ∧
        ∀ c, s.sx.checkpoint = some c →
          let rolled := (s.setSx { s.sx with context := c, hand := [], state := .expanding }).plan
          ((∀ x, rolled ≠ .ended x) → t.sx.context = c ∧ t.sx.hand = []) ∧
          (∀ i, rolled = .need i → t.sx.state = .expanding) ∧
          ∀ m first last closing, rolled = .make m first last closing → t.sw.ring.length < 16 → t.sw.waiting = [] →
            (closing = true → t.wt.cuts.length + t.wt.reservations.length < 8) → t.sx.state = .expanding) ∧
    (s.rc.state ≠ .halted → exec (.backstitch src n) s = .next (answer sv .refusedState [] s)) ∧
    (s.rc.state = .halted → n = 0 → exec (.backstitch src n) s = .next (answer sv .badParam [] s)) ∧
    (s.rc.state = .halted → n ≠ 0 → s.gh.rewindable = 0 →
      exec (.backstitch src n) s = .next (answer sv .nothingToRewind [] s))

/-! ### The Web Tracker -/

/-- CUT DONE of the oldest entry removes it; of another entry it is OUT_OF_SEQUENCE and of none NOT_FOUND, and changes
nothing. -/
def Obligations.CutDoneRemovesOldest : Prop :=
  ∀ (s : State) (sv : Service) (src : NodeId) (tag : Word16) (copy : Byte), Serving s sv (.cutDone src tag copy) →
    (tag = 0 ∨ copy = 0 → exec (.cutDone src tag copy) s = .next (answer sv .badParam [] s)) ∧
    (tag ≠ 0 → copy ≠ 0 →
      (∀ e rest, s.wt.cuts = e :: rest → e.tag = tag → e.copy = copy.toNat →
        Leaves (exec (.cutDone src tag copy) s) fun t =>
          t.wt = { s.wt with cuts := rest } ∧ t.queue = s.queue ∧ t.sw = s.sw ∧ t.gh = s.gh ∧ t.st = s.st ∧
          t.lp.general = (answer sv .ok (octet rest.length) s).lp.general) ∧
      (∀ e rest x, s.wt.cuts = e :: rest → (e.tag ≠ tag ∨ e.copy ≠ copy.toNat) → x ∈ rest → x.tag = tag →
        x.copy = copy.toNat →
        exec (.cutDone src tag copy) s = .next (answer sv .outOfSequence (octets16 e.tag ++ octet e.copy) s)) ∧
      ((∀ x ∈ s.wt.cuts, x.tag ≠ tag ∨ x.copy ≠ copy.toNat) →
        exec (.cutDone src tag copy) s = .next (answer sv .notFound [] s)))

/-- REPORT SPLICE outside STANDBY with room in the list stores the zone w − Z to w + Z; a start that does not lie after the
newest head-taken web position is late, raises SPLICE_LATE and marks the copy of the newest head-taken record, else of the newest
retired one: the newest cut list entry of that copy, or else in its order the current copy's flag or the pending list. A full list
stores nothing, and raises SPLICE_OVERFLOW in PRIMING and RUN. -/
def Obligations.SpliceIsReported : Prop :=
  ∀ (s : State) (sv : Service) (src : NodeId) (web : Word32), Serving s sv (.reportSplice src web) →
    (s.rc.state = .standby → exec (.reportSplice src web) s = .next (answer sv .refusedState [] s)) ∧
    (s.rc.state ≠ .standby → s.wt.zones.length < 4 →
      let first := web - BitVec.ofNat 32 s.st.working.spliceHalf
      let last := web + BitVec.ofNat 32 s.st.working.spliceHalf
      let octets := octets32 first ++ octets32 last ++ octet (s.wt.zones.length + 1)
      let newest := (s.sw.find (prevSerial s.sw.headNext)).map fun r => (r.web, r.tag, r.copy)
      let startLiesAfter := decide ((((newest.map Prod.fst).getD s.wt.web) - first).toInt < 0)
      (startLiesAfter = true → exec (.reportSplice src web) s =
        .next (answer sv .ok octets (s.setWt { s.wt with zones := s.wt.zones ++ [⟨first, last⟩] }))) ∧
      (startLiesAfter = false → Leaves (exec (.reportSplice src web) s) fun t =>
        t.wt.zones = s.wt.zones ++ [⟨first, last⟩] ∧ t.rc.causes = s.rc.causes ||| 0x0010 ∧
        (s.rc.state = .halted → t.rc.state = .halted) ∧ (s.rc.state ≠ .halted → t.rc.state = .halting) ∧
        t.sw = s.sw ∧ t.gh = s.gh ∧ t.lp.general = (answer sv .okLate octets s).lp.general ∧
        ((newest.map Prod.snd).or s.wt.newest = none → t.wt.cuts = s.wt.cuts ∧ t.queue = s.queue) ∧
        ∀ tag copy, (newest.map Prod.snd).or s.wt.newest = some (tag, copy) →
          (∀ before (e : CutEntry) behind, s.wt.cuts = before ++ e :: behind → e.tag = tag → e.copy = copy →
            (∀ x ∈ behind, x.tag ≠ tag ∨ x.copy ≠ copy) →
            t.wt.cuts = before ++ { e with spliceLate := true } :: behind ∧ t.queue = s.queue) ∧
          ((∀ x ∈ s.wt.cuts, x.tag ≠ tag ∨ x.copy ≠ copy) → t.wt.cuts = s.wt.cuts ∧
            t.queue = s.queue.map fun o => if o.tag == tag then
              (if copy = o.copiesEnded + 1 then { o with spliceLate := true }
               else if o.copiesEnded + 1 < copy then { o with pendingLate := addPending copy o.pendingLate } else o)
              else o))) ∧
    (∀ (copy : Nat) (late : List Nat) (x : Nat), x ∈ addPending copy late ↔ x = copy ∨ x ∈ late) ∧
    (s.rc.state ≠ .standby → 4 ≤ s.wt.zones.length → Leaves (exec (.reportSplice src web) s) fun t =>
      t.wt = s.wt ∧ t.sw = s.sw ∧ t.queue = s.queue ∧
      t.lp.general = (answer sv .full (s.wt.zones.flatMap fun z => octets32 z.last) s).lp.general ∧
      (s.rc.state = .priming ∨ s.rc.state = .run → t.rc.state = .halting ∧ t.rc.causes = s.rc.causes ||| 0x0020) ∧
      (s.rc.state = .halting ∨ s.rc.state = .halted → t.rc = s.rc))

/-! ### Settings -/

/-- SET SETTING in STANDBY stores each setting's value, changed as R166 gives where it lies outside the range, and answers the
stored value, OK_CLAMPED where it differs. A travel takes the home lateral and the queued orders with it, and a node number, cell
time or filter comes into force once the answer is gone (log 18). A number of value octets that is not the setting's is BAD_PARAM
in every run state, with 1 to 4 for a code that names no setting (log 17); then SET SETTING is REFUSED_STATE outside STANDBY; then
a code that names no setting, a node number above 30 and a filter other than off and on are BAD_PARAM. -/
def Obligations.SetSettingStores : Prop :=
  ((∀ code ∈ [0x04, 0x05, 0x10, 0x11], settingWidth code = some 2) ∧ settingWidth 0x12 = some 4 ∧
    (∀ code : Byte, 1 ≤ code.toNat → code.toNat ≤ 15 → code ≠ 0x04 → code ≠ 0x05 → settingWidth code = some 1) ∧
    ∀ code : Byte, code = 0 ∨ 0x12 < code.toNat → settingWidth code = none) ∧
  ∀ (s : State) (sv : Service) (src : NodeId) (code : Byte) (value : List Byte), Serving s sv (.setSetting src code value) →
    let v := natOfOctets value
    let st := s.st.working
    let run := exec (.setSetting src code value) s
    (∀ w, settingWidth code = some w → value.length ≠ w → run = .next (answer sv .badParam [] s)) ∧
    (settingWidth code = none → value.length < 1 ∨ 4 < value.length → run = .next (answer sv .badParam [] s)) ∧
    (s.rc.state ≠ .standby → settingWidth code = some value.length ∨
        settingWidth code = none ∧ 1 ≤ value.length ∧ value.length ≤ 4 →
      run = .next (answer sv .refusedState [] s)) ∧
    (s.rc.state = .standby → settingWidth code = none ∨
        settingWidth code = some value.length ∧ (code = 0x01 ∧ 30 < v ∨ code = 0x03 ∧ 1 < v) →
      run = .next (answer sv .badParam [] s)) ∧
    (s.rc.state = .standby → settingWidth code = some value.length → ¬ (code = 0x01 ∧ 30 < v) → ¬ (code = 0x03 ∧ 1 < v) →
      Leaves run fun t =>
        (code = 0x01 → t.st.working = { st with nodeNumber := v }) ∧
        (code = 0x02 → t.st.working = { st with cellTime := max 4 (min v 250) }) ∧
        (code = 0x03 → t.st.working = { st with lineFilter := decide (v = 1) }) ∧
        (code = 0x04 → t.st.working = { st with
          travel := max 100 (min v 3000)
          homeLateral := min st.homeLateral (max 100 (min v 3000)) }) ∧
        (code = 0x05 → t.st.working = { st with homeLateral := min v st.travel }) ∧
        (code = 0x06 → t.st.working = { st with xMax := max 1 (min v 120) }) ∧
        (code = 0x07 → t.st.working = { st with yFwd := max 1 (min v 120) }) ∧
        (code = 0x08 → t.st.working = { st with yRev := min v 60 }) ∧
        (code = 0x09 → t.st.working = { st with xJmax := max 1 (min v 250) }) ∧
        (code = 0x0A → t.st.working = { st with yJmax := max 1 (min v 250) }) ∧
        (code = 0x0B → t.st.working = { st with defStitch := max 10 (min v 100) }) ∧
        (code = 0x0C → t.st.working = { st with defTackCount := min 6 (v - v % 2) }) ∧
        (code = 0x0D → t.st.working = { st with defTackLength := max 1 (min v 20) }) ∧
        (code = 0x0E → t.st.working = { st with primeDepth := max 1 (min v 16) }) ∧
        (code = 0x0F → t.st.working = { st with leadLimit := max 1 (min v 4) }) ∧
        (code = 0x10 → t.st.working = { st with stopSilence := max 50 (min v 2000) }) ∧
        (code = 0x11 → t.st.working = { st with spliceHalf := min v 500 }) ∧
        (code = 0x12 → t.st.working = { st with protect := BitVec.ofNat 32 v }) ∧
        t.st = { s.st with working := t.st.working } ∧
        (code ≠ 0x04 → t.queue = s.queue) ∧
        (code = 0x04 → t.queue = s.queue.map fun o =>
          let start := min o.start t.st.working.travel
          { o with
            start := start
            willClip := match tableEntry s.pl.table o.slot with
              | some (.closed info) =>
                decide ((start : Int) + info.xMin < 0) || decide (t.st.working.travel < start + info.xMax)
              | _ => o.willClip }) ∧
        t.lp = (answerThen sv (if t.st.working.value code = v then .ok else .okClamped)
          (octetsOfWidth value.length (t.st.working.value code) ++
            (if code = 0x04 then octetsNat16 t.st.working.homeLateral ++
              [boolOctet (decide (t.st.working.homeLateral ≠ st.homeLateral))] else []))
          ⟨if code = 0x01 then some v else none, if code = 0x02 then some t.st.working.cellTime else none,
            if code = 0x03 then some t.st.working.lineFilter else none, false⟩ s).lp ∧
        t.sw = s.sw ∧ t.wt = s.wt ∧ t.pl = s.pl ∧ t.rc = s.rc ∧ t.sx = s.sx ∧ t.gh = s.gh)

/-- SET ROLE in STANDBY: NONE removes the node's entry, a role replaces the node's in place or adds an entry at the tail, and OK
carries the number of entries. The refusals, by the first test that fails, change nothing: REFUSED_STATE, BAD_PARAM, DUPLICATE and
FULL. From the table's SUPERVISOR an accepted request keeps the table sound: at most 8 entries, no node twice, no single role twice,
exactly one SUPERVISOR. -/
def Obligations.SetRoleKeepsTableSound : Prop :=
  ∀ (s : State) (sv : Service) (src : NodeId) (node role : Byte), Serving s sv (.setRole src node role) →
    let run := exec (.setRole src node role) s
    let roles := s.st.working.roles
    let storing (new : List RoleEntry) : Host.Outcome State Fault Refusal := .next (answer sv .ok (octet new.length)
      (s.setSt { s.st with working := { s.st.working with roles := new } }))
    let heldByAnother := (role = 1 ∨ role = 2 ∨ role = 3 ∨ role = 5) ∧ ∃ e ∈ roles, e.node ≠ node.toNat ∧ e.role.code = role
    (s.rc.state ≠ .standby → run = .next (answer sv .refusedState [] s)) ∧
    (s.rc.state = .standby →
      (30 < node.toNat ∨ 6 < role.toNat ∨ (node.toNat = sv.node.toNat ∧ role ≠ 1) →
        run = .next (answer sv .badParam [] s)) ∧
      (node.toNat ≤ 30 → role.toNat ≤ 6 → (node.toNat = sv.node.toNat → role = 1) →
        (heldByAnother → run = .next (answer sv .duplicate [] s)) ∧
        (¬ heldByAnother →
          (role = 0 → run = storing (roles.filter fun e => e.node != node.toNat)) ∧
          (role ≠ 0 → (∀ e ∈ roles, e.node ≠ node.toNat) →
            (8 ≤ roles.length → run = .next (answer sv .full [] s)) ∧
            (roles.length < 8 → ∃ r : Role, r.code = role ∧ run = storing (roles ++ [⟨node.toNat, r⟩]))) ∧
          ∀ before (e : RoleEntry) behind, role ≠ 0 → roles = before ++ e :: behind → e.node = node.toNat →
            (∀ x ∈ before ++ behind, x.node ≠ node.toNat) →
            ∃ r : Role, r.code = role ∧ run = storing (before ++ ⟨node.toNat, r⟩ :: behind)))) ∧
    (s.rc.state = .standby → roleTableOk roles = true → roles.length ≤ 8 →
      roleOfNode roles sv.node.toNat = some .supervisor →
      Leaves run fun t =>
        roleTableOk t.st.working.roles = true ∧ t.st.working.roles.length ≤ 8 ∧
        roleOfNode t.st.working.roles sv.node.toNat = some .supervisor ∧
        (node.toNat ≤ 30 → node.toNat ≠ sv.node.toNat → role = 6 →
          (∃ e ∈ roles, e.node = node.toNat) ∨ roles.length < 8 →
          roleOfNode t.st.working.roles node.toNat = some .observer))

/-- RESET PART in STANDBY with the library IDLE is answered OK, and the reset becomes due with the answer's end; the library's
work refuses it BUSY. -/
def Obligations.ResetPartIsAccepted : Prop :=
  ∀ (s : State) (sv : Service) (src : NodeId), Serving s sv (.resetPart src) →
    (s.rc.state = .standby → s.pl.op = none → Leaves (exec (.resetPart src) s) fun t =>
      t = s.setLp { (answerThen sv .ok [] ⟨none, none, none, true⟩ s).lp with resetPart := .accepted } ∧
      t.canHandOn = false) ∧
    (s.rc.state = .standby → s.pl.op.isSome = true → exec (.resetPart src) s = .next (answer sv .busy [] s)) ∧
    (s.rc.state ≠ .standby → exec (.resetPart src) s = .next (answer sv .refusedState [] s))

/-! ### The Line Port -/

/-- FRAME_HAND_ON frees the oldest frame's slot. A code that names no request is answered UNKNOWN_REQUEST; a node without an entry,
or with a role the request does not permit, REFUSED_ROLE; a request its role permits passes to its owner, with its number of
parameter octets, and is else BAD_PARAM. The permitted roles and the numbers of octets are those of the tables of R161 and R177. -/
def Obligations.HandOnPassesRoleCheck : Prop :=
  (∀ (s : State) (r : RequestFrame) (rest : List RequestFrame), s.ready = true →
    s.lp.inbound = r :: rest → s.lp.service = none → s.lp.resetPart = .none → s.lp.general.length < 5 →
    let answered (status : Byte) (params : List Byte) (role : Option Role) : State := s.setLp { s.lp with
      inbound := rest
      general := s.lp.general ++ [⟨r.src, .answer, status, params, answerPriority role, 0, .none⟩] }
    (permittedRoles r.code = none → exec .frameHandOn s =
      .next (answered 0x13 [r.code] (roleOfNode s.st.working.roles r.src.toNat))) ∧
    ∀ permitted, permittedRoles r.code = some permitted →
      (roleOfNode s.st.working.roles r.src.toNat = none → exec .frameHandOn s = .next (answered 0x12 [0] none)) ∧
      ∀ role, roleOfNode s.st.working.roles r.src.toNat = some role →
        (role ∉ permitted → exec .frameHandOn s = .next (answered 0x12 [role.code] (some role))) ∧
        (role ∈ permitted →
          (decodeRequest r = none → exec .frameHandOn s = .next (answered 0x10 [] (some role))) ∧
          ∀ c, decodeRequest r = some c → exec .frameHandOn s =
            .next (s.setLp { s.lp with inbound := rest, service := some ⟨c, r.src, role, .handed⟩ }))) ∧
  (∀ code ∈ [0x01, 0x02, 0x03, 0x04, 0x05, 0x10, 0x11, 0x30, 0x31, 0x32, 0x33, 0x34, 0x35, 0x39, 0x42, 0x43, 0x44, 0x60,
    0x61, 0x62, 0x63, 0x64], permittedRoles code = some [.supervisor]) ∧
  (∀ code ∈ [0x06, 0x07, 0x12, 0x13, 0x37, 0x38, 0x45, 0x65, 0x66], ∃ permitted, permittedRoles code = some permitted ∧
    ∀ role, role ∈ permitted) ∧
  (∀ code ∈ [0x20, 0x36], permittedRoles code = some [.head]) ∧
  (∀ code ∈ [0x21, 0x52], permittedRoles code = some [.feed]) ∧ permittedRoles 0x22 = some [.head, .feed] ∧
  (∀ code ∈ [0x40, 0x41], permittedRoles code = some [.thread]) ∧ permittedRoles 0x50 = some [.cutter, .supervisor] ∧
  permittedRoles 0x51 = some [.cutter] ∧ (∀ code, permittedRoles code = none ↔ code ∉ requestCodes) ∧
  ∀ (r : RequestFrame),
    (r.code ∈ [0x02, 0x07, 0x12, 0x30, 0x31, 0x32, 0x33, 0x34, 0x36, 0x39, 0x50, 0x62, 0x63, 0x64, 0x66] →
      ((decodeRequest r).isSome = true ↔ r.params.length = 0)) ∧
    (r.code ∈ [0x04, 0x05, 0x37, 0x38, 0x44, 0x45, 0x65] → ((decodeRequest r).isSome = true ↔ r.params.length = 1)) ∧
    (r.code ∈ [0x03, 0x11, 0x35, 0x61] → ((decodeRequest r).isSome = true ↔ r.params.length = 2)) ∧
    (r.code ∈ [0x13, 0x51] → ((decodeRequest r).isSome = true ↔ r.params.length = 3)) ∧
    (r.code ∈ [0x06, 0x20, 0x21, 0x22, 0x40, 0x41, 0x42, 0x43, 0x52] →
      ((decodeRequest r).isSome = true ↔ r.params.length = 4)) ∧
    (r.code = 0x10 → ((decodeRequest r).isSome = true ↔ r.params.length = 18)) ∧
    (r.code ∈ [0x01, 0x60] → ((decodeRequest r).isSome = true ↔ 1 ≤ r.params.length))

/-- The bit engine: a dominant that is no start mark is counted and ends the idle line, 6 T of recessive line make it idle and
10 T end the wait after an own frame; on an idle line the part starts the STATE first, and else of its general places the frame of
the lowest priority number, the one that joined first among equals. That the frame carries the node number in force when it starts,
and that the idle times count with the cell time in force, is log 18's reading, that a flag stands for the 10 T wait is log 20's, and
that lineOut is cleared is log 21's form. -/
def Obligations.BitEngineMoves : Prop :=
  (∀ (s : State) (m : LineCell), s.ready = true → s.lp.engine = .idle → startMarkOk s.lp.cellTime m = false →
    (s.lp.filter = true → 2000 ≤ m.dominant) →
    exec (.notAStartMark m) s = .next (s.setLp { s.lp with
      engine := .busy
      lineOut := ⟨[], false⟩
      counters := { s.lp.counters with bitErrors := saturatingSucc s.lp.counters.bitErrors } })) ∧
  (∀ (s : State) (ns : Nat), s.ready = true → s.lp.engine = .busy → 600 * (10 * s.lp.cellTime) ≤ ns →
    exec (.lineIdle ns) s = .next (s.setLp { s.lp with
      engine := .idle
      ownWait := if 1000 * (10 * s.lp.cellTime) ≤ ns then false else s.lp.ownWait })) ∧
  (∀ (s : State) (f : OutFrame), s.ready = true → s.lp.engine = .idle → s.lp.ownWait = false → s.lp.sending = none →
    s.lp.statePlace = some f → exec .frameStart s = .next (s.setLp { s.lp with
      engine := .sending
      sending := some ⟨.state, f.octets s.lp.node, decide (f.destination = 31#5), false⟩ })) ∧
  (∀ (s : State) (before : List OutFrame) (f : OutFrame) (behind : List OutFrame), s.ready = true → s.lp.engine = .idle →
    s.lp.ownWait = false → s.lp.sending = none → s.lp.statePlace = none → s.lp.general = before ++ f :: behind →
    (∀ x ∈ before, f.priority < x.priority) → (∀ x ∈ behind, f.priority ≤ x.priority) →
    exec .frameStart s = .next (s.setLp { s.lp with
      engine := .sending
      sending := some ⟨.general before.length, f.octets s.lp.node, decide (f.destination = 31#5), false⟩ })) ∧
  ∀ s : State, s.ready = true →
    s.lp.engine ≠ .idle ∨ s.lp.ownWait = true ∨ s.lp.sending.isSome = true ∨ (s.lp.statePlace = none ∧ s.lp.general = []) →
    exec .frameStart s = .next s

/-- The end of an attempt at a frame in a general place or in the STATE place, addressed or broadcast: delivered, it leaves its
place, a STATE whose content was replaced meanwhile excepted; arbitration lost, it stays, the loss is counted, and the part
receives the frame as any other receiver, or refuses it, counted, where the start mark it sees has become none; a collision, an
error seen or a refusal raises its abort count, and the third discards it; a collision and an error seen count a bit error, and an
error seen alone drives a pulse. What waited for a general frame, a node number (R168) or the reset of RESET PART (R175), comes
into force or becomes due when it is delivered or discarded (log 18); the 10 T wait follows (log 20). That an abort of a STATE whose
content was replaced counts on the newer content is the model's choice (log 19), and that the pulse is held in lineOut its form
(log 21). -/
def Obligations.AttemptsEnd : Prop :=
  ∀ (s : State) (w : Wave) (x : Sending), s.ready = true → s.lp.sending = some x →
    let outcome := s.lp.attemptEnd x w
    let errors := if outcome = .refused then s.lp.counters
      else { s.lp.counters with bitErrors := saturatingSucc s.lp.counters.bitErrors }
    let discarded := { errors with undelivered := saturatingSucc errors.undelivered }
    let rests (t : State) : Prop := t.lp.sending = none ∧ t.lp.engine = .busy ∧ t.lp.ownWait = true ∧
      t.lp.inbound = s.lp.inbound ∧ t.st = s.st ∧ t.rc = s.rc
    (outcome = .lost → ∀ m cells, seenLine s.lp.filter w = m :: cells →
      let losses := saturatingSucc s.lp.counters.losses
      let received := receiveFrame s.lp.receiver cells
      (startMarkOk s.lp.cellTime m = true → exec (.arbitrationLost w) s = .next (s.setLp { s.lp with
        sending := none
        engine := .busy
        ownWait := false
        inbound := s.lp.inbound ++ received.frame.toList
        lineOut := ⟨received.acknowledged, received.pulsed⟩
        counters := { s.lp.counters with
          losses := losses
          bitErrors := addCount s.lp.counters.bitErrors received.bitErrors
          refusals := addCount s.lp.counters.refusals received.refusals } })) ∧
      (startMarkOk s.lp.cellTime m = false → exec (.arbitrationLost w) s = .next (s.setLp { s.lp with
        sending := none
        engine := .busy
        ownWait := false
        lineOut := ⟨[], false⟩
        counters := { s.lp.counters with
          losses := losses
          bitErrors := saturatingSucc s.lp.counters.bitErrors } }))) ∧
    (∀ i f, x.place = .general i → s.lp.general[i]? = some f →
      let inForce (t : State) : Prop := t.lp.node = f.after.node.getD s.lp.node ∧
        t.lp.cellTime = f.after.cellTime.getD s.lp.cellTime ∧ t.lp.filter = f.after.filter.getD s.lp.filter ∧
        (f.after.reset = true → t.lp.resetPart = .due)
      (outcome = .delivered → Leaves (exec (.frameDelivered w) s) fun t =>
        rests t ∧ inForce t ∧ t.lp.general = s.lp.general.eraseIdx i ∧ t.lp.statePlace = s.lp.statePlace ∧
        t.lp.counters = s.lp.counters) ∧
      (outcome = .lost → Leaves (exec (.arbitrationLost w) s) fun t =>
        t.lp.general = s.lp.general ∧ t.lp.sending = none ∧ t.lp.engine = .busy ∧
        t.lp.counters.losses = saturatingSucc s.lp.counters.losses ∧
        t.lp.counters.undelivered = s.lp.counters.undelivered ∧ t.st = s.st ∧ t.rc = s.rc) ∧
      (outcome = .collision ∨ outcome = .errorSeen ∨ outcome = .refused → Leaves (exec (.errorAbort w) s) fun t =>
        rests t ∧ t.lp.lineOut.pulsed = decide (outcome = .errorSeen) ∧ t.lp.statePlace = s.lp.statePlace ∧
        (f.aborts < 2 → t.lp.general = s.lp.general.set i { f with aborts := f.aborts + 1 } ∧ t.lp.counters = errors) ∧
        (2 ≤ f.aborts → inForce t ∧ t.lp.general = s.lp.general.eraseIdx i ∧ t.lp.counters = discarded))) ∧
    (∀ f, x.place = .state → s.lp.statePlace = some f →
      (outcome = .delivered → Leaves (exec (.frameDelivered w) s) fun t =>
        rests t ∧ t.lp.general = s.lp.general ∧ t.lp.counters = s.lp.counters ∧
        t.lp.statePlace = (if x.replaced then some f else none)) ∧
      (outcome = .lost → Leaves (exec (.arbitrationLost w) s) fun t =>
        t.lp.general = s.lp.general ∧ t.lp.statePlace = some f ∧ t.lp.sending = none ∧
        t.lp.counters.losses = saturatingSucc s.lp.counters.losses) ∧
      (outcome = .collision ∨ outcome = .errorSeen ∨ outcome = .refused → Leaves (exec (.errorAbort w) s) fun t =>
        rests t ∧ t.lp.lineOut.pulsed = decide (outcome = .errorSeen) ∧ t.lp.general = s.lp.general ∧
        (f.aborts < 2 → t.lp.statePlace = some { f with aborts := f.aborts + 1 } ∧ t.lp.counters = errors) ∧
        (2 ≤ f.aborts → t.lp.statePlace = none ∧ t.lp.counters = discarded)))
end

