-- ==== Sys2Proof/Laws/State.lean ====
section
/-! SUPPORT. Each setter of State, field by field. -/

namespace Sys2Proof.Machine

@[simp] theorem setPins_pins (s : State) (x : Pins) : (s.setPins x).pins = x := rfl
@[simp] theorem setPins_lp (s : State) (x : Pins) : (s.setPins x).lp = s.lp := rfl
@[simp] theorem setPins_pl (s : State) (x : Pins) : (s.setPins x).pl = s.pl := rfl
@[simp] theorem setPins_queue (s : State) (x : Pins) : (s.setPins x).queue = s.queue := rfl
@[simp] theorem setPins_sx (s : State) (x : Pins) : (s.setPins x).sx = s.sx := rfl
@[simp] theorem setPins_sw (s : State) (x : Pins) : (s.setPins x).sw = s.sw := rfl
@[simp] theorem setPins_rc (s : State) (x : Pins) : (s.setPins x).rc = s.rc := rfl
@[simp] theorem setPins_gh (s : State) (x : Pins) : (s.setPins x).gh = s.gh := rfl
@[simp] theorem setPins_wt (s : State) (x : Pins) : (s.setPins x).wt = s.wt := rfl
@[simp] theorem setPins_st (s : State) (x : Pins) : (s.setPins x).st = s.st := rfl
@[simp] theorem setPins_pending (s : State) (x : Pins) : (s.setPins x).pending = s.pending := rfl

@[simp] theorem setLp_pins (s : State) (x : LinePort) : (s.setLp x).pins = s.pins := rfl
@[simp] theorem setLp_lp (s : State) (x : LinePort) : (s.setLp x).lp = x := rfl
@[simp] theorem setLp_pl (s : State) (x : LinePort) : (s.setLp x).pl = s.pl := rfl
@[simp] theorem setLp_queue (s : State) (x : LinePort) : (s.setLp x).queue = s.queue := rfl
@[simp] theorem setLp_sx (s : State) (x : LinePort) : (s.setLp x).sx = s.sx := rfl
@[simp] theorem setLp_sw (s : State) (x : LinePort) : (s.setLp x).sw = s.sw := rfl
@[simp] theorem setLp_rc (s : State) (x : LinePort) : (s.setLp x).rc = s.rc := rfl
@[simp] theorem setLp_gh (s : State) (x : LinePort) : (s.setLp x).gh = s.gh := rfl
@[simp] theorem setLp_wt (s : State) (x : LinePort) : (s.setLp x).wt = s.wt := rfl
@[simp] theorem setLp_st (s : State) (x : LinePort) : (s.setLp x).st = s.st := rfl
@[simp] theorem setLp_pending (s : State) (x : LinePort) : (s.setLp x).pending = s.pending := rfl

@[simp] theorem setPl_pins (s : State) (x : Library) : (s.setPl x).pins = s.pins := rfl
@[simp] theorem setPl_lp (s : State) (x : Library) : (s.setPl x).lp = s.lp := rfl
@[simp] theorem setPl_pl (s : State) (x : Library) : (s.setPl x).pl = x := rfl
@[simp] theorem setPl_queue (s : State) (x : Library) : (s.setPl x).queue = s.queue := rfl
@[simp] theorem setPl_sx (s : State) (x : Library) : (s.setPl x).sx = s.sx := rfl
@[simp] theorem setPl_sw (s : State) (x : Library) : (s.setPl x).sw = s.sw := rfl
@[simp] theorem setPl_rc (s : State) (x : Library) : (s.setPl x).rc = s.rc := rfl
@[simp] theorem setPl_gh (s : State) (x : Library) : (s.setPl x).gh = s.gh := rfl
@[simp] theorem setPl_wt (s : State) (x : Library) : (s.setPl x).wt = s.wt := rfl
@[simp] theorem setPl_st (s : State) (x : Library) : (s.setPl x).st = s.st := rfl
@[simp] theorem setPl_pending (s : State) (x : Library) : (s.setPl x).pending = s.pending := rfl

@[simp] theorem setQueue_pins (s : State) (x : List Order) : (s.setQueue x).pins = s.pins := rfl
@[simp] theorem setQueue_lp (s : State) (x : List Order) : (s.setQueue x).lp = s.lp := rfl
@[simp] theorem setQueue_pl (s : State) (x : List Order) : (s.setQueue x).pl = s.pl := rfl
@[simp] theorem setQueue_queue (s : State) (x : List Order) : (s.setQueue x).queue = x := rfl
@[simp] theorem setQueue_sx (s : State) (x : List Order) : (s.setQueue x).sx = s.sx := rfl
@[simp] theorem setQueue_sw (s : State) (x : List Order) : (s.setQueue x).sw = s.sw := rfl
@[simp] theorem setQueue_rc (s : State) (x : List Order) : (s.setQueue x).rc = s.rc := rfl
@[simp] theorem setQueue_gh (s : State) (x : List Order) : (s.setQueue x).gh = s.gh := rfl
@[simp] theorem setQueue_wt (s : State) (x : List Order) : (s.setQueue x).wt = s.wt := rfl
@[simp] theorem setQueue_st (s : State) (x : List Order) : (s.setQueue x).st = s.st := rfl
@[simp] theorem setQueue_pending (s : State) (x : List Order) : (s.setQueue x).pending = s.pending := rfl

@[simp] theorem setSx_pins (s : State) (x : Expander) : (s.setSx x).pins = s.pins := rfl
@[simp] theorem setSx_lp (s : State) (x : Expander) : (s.setSx x).lp = s.lp := rfl
@[simp] theorem setSx_pl (s : State) (x : Expander) : (s.setSx x).pl = s.pl := rfl
@[simp] theorem setSx_queue (s : State) (x : Expander) : (s.setSx x).queue = s.queue := rfl
@[simp] theorem setSx_sx (s : State) (x : Expander) : (s.setSx x).sx = x := rfl
@[simp] theorem setSx_sw (s : State) (x : Expander) : (s.setSx x).sw = s.sw := rfl
@[simp] theorem setSx_rc (s : State) (x : Expander) : (s.setSx x).rc = s.rc := rfl
@[simp] theorem setSx_gh (s : State) (x : Expander) : (s.setSx x).gh = s.gh := rfl
@[simp] theorem setSx_wt (s : State) (x : Expander) : (s.setSx x).wt = s.wt := rfl
@[simp] theorem setSx_st (s : State) (x : Expander) : (s.setSx x).st = s.st := rfl
@[simp] theorem setSx_pending (s : State) (x : Expander) : (s.setSx x).pending = s.pending := rfl

@[simp] theorem setSw_pins (s : State) (x : Window) : (s.setSw x).pins = s.pins := rfl
@[simp] theorem setSw_lp (s : State) (x : Window) : (s.setSw x).lp = s.lp := rfl
@[simp] theorem setSw_pl (s : State) (x : Window) : (s.setSw x).pl = s.pl := rfl
@[simp] theorem setSw_queue (s : State) (x : Window) : (s.setSw x).queue = s.queue := rfl
@[simp] theorem setSw_sx (s : State) (x : Window) : (s.setSw x).sx = s.sx := rfl
@[simp] theorem setSw_sw (s : State) (x : Window) : (s.setSw x).sw = x := rfl
@[simp] theorem setSw_rc (s : State) (x : Window) : (s.setSw x).rc = s.rc := rfl
@[simp] theorem setSw_gh (s : State) (x : Window) : (s.setSw x).gh = s.gh := rfl
@[simp] theorem setSw_wt (s : State) (x : Window) : (s.setSw x).wt = s.wt := rfl
@[simp] theorem setSw_st (s : State) (x : Window) : (s.setSw x).st = s.st := rfl
@[simp] theorem setSw_pending (s : State) (x : Window) : (s.setSw x).pending = s.pending := rfl

@[simp] theorem setRc_pins (s : State) (x : RunControl) : (s.setRc x).pins = s.pins := rfl
@[simp] theorem setRc_lp (s : State) (x : RunControl) : (s.setRc x).lp = s.lp := rfl
@[simp] theorem setRc_pl (s : State) (x : RunControl) : (s.setRc x).pl = s.pl := rfl
@[simp] theorem setRc_queue (s : State) (x : RunControl) : (s.setRc x).queue = s.queue := rfl
@[simp] theorem setRc_sx (s : State) (x : RunControl) : (s.setRc x).sx = s.sx := rfl
@[simp] theorem setRc_sw (s : State) (x : RunControl) : (s.setRc x).sw = s.sw := rfl
@[simp] theorem setRc_rc (s : State) (x : RunControl) : (s.setRc x).rc = x := rfl
@[simp] theorem setRc_gh (s : State) (x : RunControl) : (s.setRc x).gh = s.gh := rfl
@[simp] theorem setRc_wt (s : State) (x : RunControl) : (s.setRc x).wt = s.wt := rfl
@[simp] theorem setRc_st (s : State) (x : RunControl) : (s.setRc x).st = s.st := rfl
@[simp] theorem setRc_pending (s : State) (x : RunControl) : (s.setRc x).pending = s.pending := rfl

@[simp] theorem setGh_pins (s : State) (x : Groups) : (s.setGh x).pins = s.pins := rfl
@[simp] theorem setGh_lp (s : State) (x : Groups) : (s.setGh x).lp = s.lp := rfl
@[simp] theorem setGh_pl (s : State) (x : Groups) : (s.setGh x).pl = s.pl := rfl
@[simp] theorem setGh_queue (s : State) (x : Groups) : (s.setGh x).queue = s.queue := rfl
@[simp] theorem setGh_sx (s : State) (x : Groups) : (s.setGh x).sx = s.sx := rfl
@[simp] theorem setGh_sw (s : State) (x : Groups) : (s.setGh x).sw = s.sw := rfl
@[simp] theorem setGh_rc (s : State) (x : Groups) : (s.setGh x).rc = s.rc := rfl
@[simp] theorem setGh_gh (s : State) (x : Groups) : (s.setGh x).gh = x := rfl
@[simp] theorem setGh_wt (s : State) (x : Groups) : (s.setGh x).wt = s.wt := rfl
@[simp] theorem setGh_st (s : State) (x : Groups) : (s.setGh x).st = s.st := rfl
@[simp] theorem setGh_pending (s : State) (x : Groups) : (s.setGh x).pending = s.pending := rfl

@[simp] theorem setWt_pins (s : State) (x : Web) : (s.setWt x).pins = s.pins := rfl
@[simp] theorem setWt_lp (s : State) (x : Web) : (s.setWt x).lp = s.lp := rfl
@[simp] theorem setWt_pl (s : State) (x : Web) : (s.setWt x).pl = s.pl := rfl
@[simp] theorem setWt_queue (s : State) (x : Web) : (s.setWt x).queue = s.queue := rfl
@[simp] theorem setWt_sx (s : State) (x : Web) : (s.setWt x).sx = s.sx := rfl
@[simp] theorem setWt_sw (s : State) (x : Web) : (s.setWt x).sw = s.sw := rfl
@[simp] theorem setWt_rc (s : State) (x : Web) : (s.setWt x).rc = s.rc := rfl
@[simp] theorem setWt_gh (s : State) (x : Web) : (s.setWt x).gh = s.gh := rfl
@[simp] theorem setWt_wt (s : State) (x : Web) : (s.setWt x).wt = x := rfl
@[simp] theorem setWt_st (s : State) (x : Web) : (s.setWt x).st = s.st := rfl
@[simp] theorem setWt_pending (s : State) (x : Web) : (s.setWt x).pending = s.pending := rfl

@[simp] theorem setSt_pins (s : State) (x : SettingsBlock) : (s.setSt x).pins = s.pins := rfl
@[simp] theorem setSt_lp (s : State) (x : SettingsBlock) : (s.setSt x).lp = s.lp := rfl
@[simp] theorem setSt_pl (s : State) (x : SettingsBlock) : (s.setSt x).pl = s.pl := rfl
@[simp] theorem setSt_queue (s : State) (x : SettingsBlock) : (s.setSt x).queue = s.queue := rfl
@[simp] theorem setSt_sx (s : State) (x : SettingsBlock) : (s.setSt x).sx = s.sx := rfl
@[simp] theorem setSt_sw (s : State) (x : SettingsBlock) : (s.setSt x).sw = s.sw := rfl
@[simp] theorem setSt_rc (s : State) (x : SettingsBlock) : (s.setSt x).rc = s.rc := rfl
@[simp] theorem setSt_gh (s : State) (x : SettingsBlock) : (s.setSt x).gh = s.gh := rfl
@[simp] theorem setSt_wt (s : State) (x : SettingsBlock) : (s.setSt x).wt = s.wt := rfl
@[simp] theorem setSt_st (s : State) (x : SettingsBlock) : (s.setSt x).st = x := rfl
@[simp] theorem setSt_pending (s : State) (x : SettingsBlock) : (s.setSt x).pending = s.pending := rfl

@[simp] theorem setPending_pins (s : State) (x : List Instr) : (s.setPending x).pins = s.pins := rfl
@[simp] theorem setPending_lp (s : State) (x : List Instr) : (s.setPending x).lp = s.lp := rfl
@[simp] theorem setPending_pl (s : State) (x : List Instr) : (s.setPending x).pl = s.pl := rfl
@[simp] theorem setPending_queue (s : State) (x : List Instr) : (s.setPending x).queue = s.queue := rfl
@[simp] theorem setPending_sx (s : State) (x : List Instr) : (s.setPending x).sx = s.sx := rfl
@[simp] theorem setPending_sw (s : State) (x : List Instr) : (s.setPending x).sw = s.sw := rfl
@[simp] theorem setPending_rc (s : State) (x : List Instr) : (s.setPending x).rc = s.rc := rfl
@[simp] theorem setPending_gh (s : State) (x : List Instr) : (s.setPending x).gh = s.gh := rfl
@[simp] theorem setPending_wt (s : State) (x : List Instr) : (s.setPending x).wt = s.wt := rfl
@[simp] theorem setPending_st (s : State) (x : List Instr) : (s.setPending x).st = s.st := rfl
@[simp] theorem setPending_pending (s : State) (x : List Instr) : (s.setPending x).pending = x := rfl

/-- Two states with the same fields are the same. -/
theorem State.same {s t : State} (h1 : s.pins = t.pins) (h2 : s.lp = t.lp) (h3 : s.pl = t.pl) (h4 : s.queue = t.queue)
    (h5 : s.sx = t.sx) (h6 : s.sw = t.sw) (h7 : s.rc = t.rc) (h8 : s.gh = t.gh) (h9 : s.wt = t.wt) (h10 : s.st = t.st)
    (h11 : s.pending = t.pending) : s = t := by
  cases s; cases t; simp_all

end Sys2Proof.Machine
end

