-- ==== Sys2Proof/Laws/Frames.lean ====
section
/-! SUPPORT. What each shared operation leaves as it was, field by field: the frame of an operation is the set of its lemmas
here. -/

namespace Sys2Proof.Machine

/-! `answerThen`: the Line Port alone changes. -/

@[simp] theorem answerThen_pins (sv : Service) (st : Status) (ps : List Byte) (a : AfterFrame) (s : State) :
    (answerThen sv st ps a s).pins = s.pins := rfl
@[simp] theorem answerThen_pl (sv : Service) (st : Status) (ps : List Byte) (a : AfterFrame) (s : State) :
    (answerThen sv st ps a s).pl = s.pl := rfl
@[simp] theorem answerThen_queue (sv : Service) (st : Status) (ps : List Byte) (a : AfterFrame) (s : State) :
    (answerThen sv st ps a s).queue = s.queue := rfl
@[simp] theorem answerThen_sx (sv : Service) (st : Status) (ps : List Byte) (a : AfterFrame) (s : State) :
    (answerThen sv st ps a s).sx = s.sx := rfl
@[simp] theorem answerThen_sw (sv : Service) (st : Status) (ps : List Byte) (a : AfterFrame) (s : State) :
    (answerThen sv st ps a s).sw = s.sw := rfl
@[simp] theorem answerThen_rc (sv : Service) (st : Status) (ps : List Byte) (a : AfterFrame) (s : State) :
    (answerThen sv st ps a s).rc = s.rc := rfl
@[simp] theorem answerThen_gh (sv : Service) (st : Status) (ps : List Byte) (a : AfterFrame) (s : State) :
    (answerThen sv st ps a s).gh = s.gh := rfl
@[simp] theorem answerThen_wt (sv : Service) (st : Status) (ps : List Byte) (a : AfterFrame) (s : State) :
    (answerThen sv st ps a s).wt = s.wt := rfl
@[simp] theorem answerThen_st (sv : Service) (st : Status) (ps : List Byte) (a : AfterFrame) (s : State) :
    (answerThen sv st ps a s).st = s.st := rfl
@[simp] theorem answerThen_pending (sv : Service) (st : Status) (ps : List Byte) (a : AfterFrame) (s : State) :
    (answerThen sv st ps a s).pending = s.pending := rfl

/-! `answer`: the Line Port alone changes. -/

@[simp] theorem answer_pins (sv : Service) (st : Status) (ps : List Byte) (s : State) :
    (answer sv st ps s).pins = s.pins := rfl
@[simp] theorem answer_pl (sv : Service) (st : Status) (ps : List Byte) (s : State) : (answer sv st ps s).pl = s.pl := rfl
@[simp] theorem answer_queue (sv : Service) (st : Status) (ps : List Byte) (s : State) :
    (answer sv st ps s).queue = s.queue := rfl
@[simp] theorem answer_sx (sv : Service) (st : Status) (ps : List Byte) (s : State) : (answer sv st ps s).sx = s.sx := rfl
@[simp] theorem answer_sw (sv : Service) (st : Status) (ps : List Byte) (s : State) : (answer sv st ps s).sw = s.sw := rfl
@[simp] theorem answer_rc (sv : Service) (st : Status) (ps : List Byte) (s : State) : (answer sv st ps s).rc = s.rc := rfl
@[simp] theorem answer_gh (sv : Service) (st : Status) (ps : List Byte) (s : State) : (answer sv st ps s).gh = s.gh := rfl
@[simp] theorem answer_wt (sv : Service) (st : Status) (ps : List Byte) (s : State) : (answer sv st ps s).wt = s.wt := rfl
@[simp] theorem answer_st (sv : Service) (st : Status) (ps : List Byte) (s : State) : (answer sv st ps s).st = s.st := rfl
@[simp] theorem answer_pending (sv : Service) (st : Status) (ps : List Byte) (s : State) :
    (answer sv st ps s).pending = s.pending := rfl

/-! `State.serviceWaits`: the Line Port alone changes. -/

@[simp] theorem serviceWaits_pins (s : State) (sv : Service) (p : ServicePhase) : (s.serviceWaits sv p).pins = s.pins := rfl
@[simp] theorem serviceWaits_pl (s : State) (sv : Service) (p : ServicePhase) : (s.serviceWaits sv p).pl = s.pl := rfl
@[simp] theorem serviceWaits_queue (s : State) (sv : Service) (p : ServicePhase) :
    (s.serviceWaits sv p).queue = s.queue := rfl
@[simp] theorem serviceWaits_sx (s : State) (sv : Service) (p : ServicePhase) : (s.serviceWaits sv p).sx = s.sx := rfl
@[simp] theorem serviceWaits_sw (s : State) (sv : Service) (p : ServicePhase) : (s.serviceWaits sv p).sw = s.sw := rfl
@[simp] theorem serviceWaits_rc (s : State) (sv : Service) (p : ServicePhase) : (s.serviceWaits sv p).rc = s.rc := rfl
@[simp] theorem serviceWaits_gh (s : State) (sv : Service) (p : ServicePhase) : (s.serviceWaits sv p).gh = s.gh := rfl
@[simp] theorem serviceWaits_wt (s : State) (sv : Service) (p : ServicePhase) : (s.serviceWaits sv p).wt = s.wt := rfl
@[simp] theorem serviceWaits_st (s : State) (sv : Service) (p : ServicePhase) : (s.serviceWaits sv p).st = s.st := rfl
@[simp] theorem serviceWaits_pending (s : State) (sv : Service) (p : ServicePhase) :
    (s.serviceWaits sv p).pending = s.pending := rfl
@[simp] theorem serviceWaits_lp_general (s : State) (sv : Service) (p : ServicePhase) :
    (s.serviceWaits sv p).lp.general = s.lp.general := rfl
@[simp] theorem serviceWaits_lp_inbound (s : State) (sv : Service) (p : ServicePhase) :
    (s.serviceWaits sv p).lp.inbound = s.lp.inbound := rfl
@[simp] theorem serviceWaits_lp_counters (s : State) (sv : Service) (p : ServicePhase) :
    (s.serviceWaits sv p).lp.counters = s.lp.counters := rfl

/-! `announceState`: the STATE place alone changes. -/

@[simp] theorem announceState_pins (r : StateReason) (s : State) : (announceState r s).pins = s.pins := rfl
@[simp] theorem announceState_pl (r : StateReason) (s : State) : (announceState r s).pl = s.pl := rfl
@[simp] theorem announceState_queue (r : StateReason) (s : State) : (announceState r s).queue = s.queue := rfl
@[simp] theorem announceState_sx (r : StateReason) (s : State) : (announceState r s).sx = s.sx := rfl
@[simp] theorem announceState_sw (r : StateReason) (s : State) : (announceState r s).sw = s.sw := rfl
@[simp] theorem announceState_rc (r : StateReason) (s : State) : (announceState r s).rc = s.rc := rfl
@[simp] theorem announceState_gh (r : StateReason) (s : State) : (announceState r s).gh = s.gh := rfl
@[simp] theorem announceState_wt (r : StateReason) (s : State) : (announceState r s).wt = s.wt := rfl
@[simp] theorem announceState_st (r : StateReason) (s : State) : (announceState r s).st = s.st := rfl
@[simp] theorem announceState_pending (r : StateReason) (s : State) : (announceState r s).pending = s.pending := rfl
@[simp] theorem announceState_lp_engine (r : StateReason) (s : State) : (announceState r s).lp.engine = s.lp.engine := rfl
@[simp] theorem announceState_lp_cellTime (r : StateReason) (s : State) :
    (announceState r s).lp.cellTime = s.lp.cellTime := rfl
@[simp] theorem announceState_lp_filter (r : StateReason) (s : State) : (announceState r s).lp.filter = s.lp.filter := rfl
@[simp] theorem announceState_lp_node (r : StateReason) (s : State) : (announceState r s).lp.node = s.lp.node := rfl
@[simp] theorem announceState_lp_ownWait (r : StateReason) (s : State) :
    (announceState r s).lp.ownWait = s.lp.ownWait := rfl
@[simp] theorem announceState_lp_inbound (r : StateReason) (s : State) :
    (announceState r s).lp.inbound = s.lp.inbound := rfl
@[simp] theorem announceState_lp_service (r : StateReason) (s : State) :
    (announceState r s).lp.service = s.lp.service := rfl
@[simp] theorem announceState_lp_general (r : StateReason) (s : State) :
    (announceState r s).lp.general = s.lp.general := rfl
@[simp] theorem announceState_lp_resetPart (r : StateReason) (s : State) :
    (announceState r s).lp.resetPart = s.lp.resetPart := rfl
@[simp] theorem announceState_lp_lineOut (r : StateReason) (s : State) :
    (announceState r s).lp.lineOut = s.lp.lineOut := rfl
@[simp] theorem announceState_lp_counters (r : StateReason) (s : State) :
    (announceState r s).lp.counters = s.lp.counters := rfl

/-! `announcePanelDone`: the Line Port alone changes. -/

@[simp] theorem announcePanelDone_pins (tag : Word16) (copy left : Nat) (cut : Option CutEntry) (s : State) :
    (announcePanelDone tag copy left cut s).pins = s.pins := rfl
@[simp] theorem announcePanelDone_pl (tag : Word16) (copy left : Nat) (cut : Option CutEntry) (s : State) :
    (announcePanelDone tag copy left cut s).pl = s.pl := rfl
@[simp] theorem announcePanelDone_queue (tag : Word16) (copy left : Nat) (cut : Option CutEntry) (s : State) :
    (announcePanelDone tag copy left cut s).queue = s.queue := rfl
@[simp] theorem announcePanelDone_sx (tag : Word16) (copy left : Nat) (cut : Option CutEntry) (s : State) :
    (announcePanelDone tag copy left cut s).sx = s.sx := rfl
@[simp] theorem announcePanelDone_sw (tag : Word16) (copy left : Nat) (cut : Option CutEntry) (s : State) :
    (announcePanelDone tag copy left cut s).sw = s.sw := rfl
@[simp] theorem announcePanelDone_rc (tag : Word16) (copy left : Nat) (cut : Option CutEntry) (s : State) :
    (announcePanelDone tag copy left cut s).rc = s.rc := rfl
@[simp] theorem announcePanelDone_gh (tag : Word16) (copy left : Nat) (cut : Option CutEntry) (s : State) :
    (announcePanelDone tag copy left cut s).gh = s.gh := rfl
@[simp] theorem announcePanelDone_wt (tag : Word16) (copy left : Nat) (cut : Option CutEntry) (s : State) :
    (announcePanelDone tag copy left cut s).wt = s.wt := rfl
@[simp] theorem announcePanelDone_st (tag : Word16) (copy left : Nat) (cut : Option CutEntry) (s : State) :
    (announcePanelDone tag copy left cut s).st = s.st := rfl
@[simp] theorem announcePanelDone_pending (tag : Word16) (copy left : Nat) (cut : Option CutEntry) (s : State) :
    (announcePanelDone tag copy left cut s).pending = s.pending := rfl

@[simp] theorem announcePanelDone_lp_engine (tag : Word16) (copy left : Nat) (cut : Option CutEntry) (s : State) :
    (announcePanelDone tag copy left cut s).lp.engine = s.lp.engine := by
  unfold announcePanelDone LinePort.offerAnnouncement; dsimp only [setLp_lp]; split <;> rfl
@[simp] theorem announcePanelDone_lp_cellTime (tag : Word16) (copy left : Nat) (cut : Option CutEntry) (s : State) :
    (announcePanelDone tag copy left cut s).lp.cellTime = s.lp.cellTime := by
  unfold announcePanelDone LinePort.offerAnnouncement; dsimp only [setLp_lp]; split <;> rfl
@[simp] theorem announcePanelDone_lp_filter (tag : Word16) (copy left : Nat) (cut : Option CutEntry) (s : State) :
    (announcePanelDone tag copy left cut s).lp.filter = s.lp.filter := by
  unfold announcePanelDone LinePort.offerAnnouncement; dsimp only [setLp_lp]; split <;> rfl
@[simp] theorem announcePanelDone_lp_node (tag : Word16) (copy left : Nat) (cut : Option CutEntry) (s : State) :
    (announcePanelDone tag copy left cut s).lp.node = s.lp.node := by
  unfold announcePanelDone LinePort.offerAnnouncement; dsimp only [setLp_lp]; split <;> rfl
@[simp] theorem announcePanelDone_lp_ownWait (tag : Word16) (copy left : Nat) (cut : Option CutEntry) (s : State) :
    (announcePanelDone tag copy left cut s).lp.ownWait = s.lp.ownWait := by
  unfold announcePanelDone LinePort.offerAnnouncement; dsimp only [setLp_lp]; split <;> rfl
@[simp] theorem announcePanelDone_lp_inbound (tag : Word16) (copy left : Nat) (cut : Option CutEntry) (s : State) :
    (announcePanelDone tag copy left cut s).lp.inbound = s.lp.inbound := by
  unfold announcePanelDone LinePort.offerAnnouncement; dsimp only [setLp_lp]; split <;> rfl
@[simp] theorem announcePanelDone_lp_service (tag : Word16) (copy left : Nat) (cut : Option CutEntry) (s : State) :
    (announcePanelDone tag copy left cut s).lp.service = s.lp.service := by
  unfold announcePanelDone LinePort.offerAnnouncement; dsimp only [setLp_lp]; split <;> rfl
@[simp] theorem announcePanelDone_lp_resetPart (tag : Word16) (copy left : Nat) (cut : Option CutEntry) (s : State) :
    (announcePanelDone tag copy left cut s).lp.resetPart = s.lp.resetPart := by
  unfold announcePanelDone LinePort.offerAnnouncement; dsimp only [setLp_lp]; split <;> rfl
@[simp] theorem announcePanelDone_lp_lineOut (tag : Word16) (copy left : Nat) (cut : Option CutEntry) (s : State) :
    (announcePanelDone tag copy left cut s).lp.lineOut = s.lp.lineOut := by
  unfold announcePanelDone LinePort.offerAnnouncement; dsimp only [setLp_lp]; split <;> rfl
@[simp] theorem announcePanelDone_lp_statePlace (tag : Word16) (copy left : Nat) (cut : Option CutEntry) (s : State) :
    (announcePanelDone tag copy left cut s).lp.statePlace = s.lp.statePlace := by
  unfold announcePanelDone LinePort.offerAnnouncement; dsimp only [setLp_lp]; split <;> rfl
@[simp] theorem announcePanelDone_lp_sending (tag : Word16) (copy left : Nat) (cut : Option CutEntry) (s : State) :
    (announcePanelDone tag copy left cut s).lp.sending = s.lp.sending := by
  unfold announcePanelDone LinePort.offerAnnouncement; dsimp only [setLp_lp]; split <;> rfl

/-! `enterRunState`: the run state and the STATE place alone change. -/

@[simp] theorem enterRunState_pins (x : RunState) (r : StateReason) (s : State) : (enterRunState x r s).pins = s.pins := rfl
@[simp] theorem enterRunState_pl (x : RunState) (r : StateReason) (s : State) : (enterRunState x r s).pl = s.pl := rfl
@[simp] theorem enterRunState_queue (x : RunState) (r : StateReason) (s : State) :
    (enterRunState x r s).queue = s.queue := rfl
@[simp] theorem enterRunState_sx (x : RunState) (r : StateReason) (s : State) : (enterRunState x r s).sx = s.sx := rfl
@[simp] theorem enterRunState_sw (x : RunState) (r : StateReason) (s : State) : (enterRunState x r s).sw = s.sw := rfl
@[simp] theorem enterRunState_gh (x : RunState) (r : StateReason) (s : State) : (enterRunState x r s).gh = s.gh := rfl
@[simp] theorem enterRunState_wt (x : RunState) (r : StateReason) (s : State) : (enterRunState x r s).wt = s.wt := rfl
@[simp] theorem enterRunState_st (x : RunState) (r : StateReason) (s : State) : (enterRunState x r s).st = s.st := rfl
@[simp] theorem enterRunState_pending (x : RunState) (r : StateReason) (s : State) :
    (enterRunState x r s).pending = s.pending := rfl
@[simp] theorem enterRunState_lp_engine (x : RunState) (r : StateReason) (s : State) :
    (enterRunState x r s).lp.engine = s.lp.engine := rfl
@[simp] theorem enterRunState_lp_cellTime (x : RunState) (r : StateReason) (s : State) :
    (enterRunState x r s).lp.cellTime = s.lp.cellTime := rfl
@[simp] theorem enterRunState_lp_filter (x : RunState) (r : StateReason) (s : State) :
    (enterRunState x r s).lp.filter = s.lp.filter := rfl
@[simp] theorem enterRunState_lp_node (x : RunState) (r : StateReason) (s : State) :
    (enterRunState x r s).lp.node = s.lp.node := rfl
@[simp] theorem enterRunState_lp_ownWait (x : RunState) (r : StateReason) (s : State) :
    (enterRunState x r s).lp.ownWait = s.lp.ownWait := rfl
@[simp] theorem enterRunState_lp_inbound (x : RunState) (r : StateReason) (s : State) :
    (enterRunState x r s).lp.inbound = s.lp.inbound := rfl
@[simp] theorem enterRunState_lp_service (x : RunState) (r : StateReason) (s : State) :
    (enterRunState x r s).lp.service = s.lp.service := rfl
@[simp] theorem enterRunState_lp_general (x : RunState) (r : StateReason) (s : State) :
    (enterRunState x r s).lp.general = s.lp.general := rfl
@[simp] theorem enterRunState_lp_resetPart (x : RunState) (r : StateReason) (s : State) :
    (enterRunState x r s).lp.resetPart = s.lp.resetPart := rfl
@[simp] theorem enterRunState_lp_lineOut (x : RunState) (r : StateReason) (s : State) :
    (enterRunState x r s).lp.lineOut = s.lp.lineOut := rfl
@[simp] theorem enterRunState_lp_counters (x : RunState) (r : StateReason) (s : State) :
    (enterRunState x r s).lp.counters = s.lp.counters := rfl
@[simp] theorem enterRunState_rc_causes (x : RunState) (r : StateReason) (s : State) :
    (enterRunState x r s).rc.causes = s.rc.causes := rfl
@[simp] theorem enterRunState_rc_endRequested (x : RunState) (r : StateReason) (s : State) :
    (enterRunState x r s).rc.endRequested = s.rc.endRequested := rfl
@[simp] theorem enterRunState_rc_silence (x : RunState) (r : StateReason) (s : State) :
    (enterRunState x r s).rc.silence = s.rc.silence := rfl
@[simp] theorem enterRunState_rc_holdDriven (x : RunState) (r : StateReason) (s : State) :
    (enterRunState x r s).rc.holdDriven = s.rc.holdDriven := rfl
@[simp] theorem enterRunState_rc_holdSeen (x : RunState) (r : StateReason) (s : State) :
    (enterRunState x r s).rc.holdSeen = s.rc.holdSeen := rfl
@[simp] theorem enterRunState_rc_openCopy (x : RunState) (r : StateReason) (s : State) :
    (enterRunState x r s).rc.openCopy = s.rc.openCopy := rfl
@[simp] theorem enterRunState_rc_counters (x : RunState) (r : StateReason) (s : State) :
    (enterRunState x r s).rc.counters = s.rc.counters := rfl

@[simp] theorem enterRunState_rc_state (x : RunState) (r : StateReason) (s : State) :
    (enterRunState x r s).rc.state = x := rfl

/-! `enterHalting`: Run Control and the STATE place alone change. -/

@[simp] theorem enterHalting_pins (c : Cause) (s : State) : (enterHalting c s).pins = s.pins := rfl
@[simp] theorem enterHalting_pl (c : Cause) (s : State) : (enterHalting c s).pl = s.pl := rfl
@[simp] theorem enterHalting_queue (c : Cause) (s : State) : (enterHalting c s).queue = s.queue := rfl
@[simp] theorem enterHalting_sx (c : Cause) (s : State) : (enterHalting c s).sx = s.sx := rfl
@[simp] theorem enterHalting_sw (c : Cause) (s : State) : (enterHalting c s).sw = s.sw := rfl
@[simp] theorem enterHalting_gh (c : Cause) (s : State) : (enterHalting c s).gh = s.gh := rfl
@[simp] theorem enterHalting_wt (c : Cause) (s : State) : (enterHalting c s).wt = s.wt := rfl
@[simp] theorem enterHalting_st (c : Cause) (s : State) : (enterHalting c s).st = s.st := rfl
@[simp] theorem enterHalting_pending (c : Cause) (s : State) : (enterHalting c s).pending = s.pending := rfl
@[simp] theorem enterHalting_lp_engine (c : Cause) (s : State) : (enterHalting c s).lp.engine = s.lp.engine := rfl
@[simp] theorem enterHalting_lp_cellTime (c : Cause) (s : State) : (enterHalting c s).lp.cellTime = s.lp.cellTime := rfl
@[simp] theorem enterHalting_lp_filter (c : Cause) (s : State) : (enterHalting c s).lp.filter = s.lp.filter := rfl
@[simp] theorem enterHalting_lp_node (c : Cause) (s : State) : (enterHalting c s).lp.node = s.lp.node := rfl
@[simp] theorem enterHalting_lp_ownWait (c : Cause) (s : State) : (enterHalting c s).lp.ownWait = s.lp.ownWait := rfl
@[simp] theorem enterHalting_lp_inbound (c : Cause) (s : State) : (enterHalting c s).lp.inbound = s.lp.inbound := rfl
@[simp] theorem enterHalting_lp_service (c : Cause) (s : State) : (enterHalting c s).lp.service = s.lp.service := rfl
@[simp] theorem enterHalting_lp_general (c : Cause) (s : State) : (enterHalting c s).lp.general = s.lp.general := rfl
@[simp] theorem enterHalting_lp_resetPart (c : Cause) (s : State) : (enterHalting c s).lp.resetPart = s.lp.resetPart := rfl
@[simp] theorem enterHalting_lp_lineOut (c : Cause) (s : State) : (enterHalting c s).lp.lineOut = s.lp.lineOut := rfl
@[simp] theorem enterHalting_lp_counters (c : Cause) (s : State) : (enterHalting c s).lp.counters = s.lp.counters := rfl
@[simp] theorem enterHalting_rc_endRequested (c : Cause) (s : State) :
    (enterHalting c s).rc.endRequested = s.rc.endRequested := rfl
@[simp] theorem enterHalting_rc_openCopy (c : Cause) (s : State) : (enterHalting c s).rc.openCopy = s.rc.openCopy := rfl
@[simp] theorem enterHalting_rc_counters (c : Cause) (s : State) : (enterHalting c s).rc.counters = s.rc.counters := rfl

/-! `raiseCause`: Run Control and the STATE place alone change. -/

@[simp] theorem raiseCause_pins (c : Cause) (s : State) : (raiseCause c s).pins = s.pins := by
  unfold raiseCause; split <;> rfl
@[simp] theorem raiseCause_pl (c : Cause) (s : State) : (raiseCause c s).pl = s.pl := by
  unfold raiseCause; split <;> rfl
@[simp] theorem raiseCause_queue (c : Cause) (s : State) : (raiseCause c s).queue = s.queue := by
  unfold raiseCause; split <;> rfl
@[simp] theorem raiseCause_sx (c : Cause) (s : State) : (raiseCause c s).sx = s.sx := by
  unfold raiseCause; split <;> rfl
@[simp] theorem raiseCause_sw (c : Cause) (s : State) : (raiseCause c s).sw = s.sw := by
  unfold raiseCause; split <;> rfl
@[simp] theorem raiseCause_gh (c : Cause) (s : State) : (raiseCause c s).gh = s.gh := by
  unfold raiseCause; split <;> rfl
@[simp] theorem raiseCause_wt (c : Cause) (s : State) : (raiseCause c s).wt = s.wt := by
  unfold raiseCause; split <;> rfl
@[simp] theorem raiseCause_st (c : Cause) (s : State) : (raiseCause c s).st = s.st := by
  unfold raiseCause; split <;> rfl
@[simp] theorem raiseCause_pending (c : Cause) (s : State) : (raiseCause c s).pending = s.pending := by
  unfold raiseCause; split <;> rfl
@[simp] theorem raiseCause_lp_engine (c : Cause) (s : State) : (raiseCause c s).lp.engine = s.lp.engine := by
  unfold raiseCause; split <;> rfl
@[simp] theorem raiseCause_lp_cellTime (c : Cause) (s : State) : (raiseCause c s).lp.cellTime = s.lp.cellTime := by
  unfold raiseCause; split <;> rfl
@[simp] theorem raiseCause_lp_filter (c : Cause) (s : State) : (raiseCause c s).lp.filter = s.lp.filter := by
  unfold raiseCause; split <;> rfl
@[simp] theorem raiseCause_lp_node (c : Cause) (s : State) : (raiseCause c s).lp.node = s.lp.node := by
  unfold raiseCause; split <;> rfl
@[simp] theorem raiseCause_lp_ownWait (c : Cause) (s : State) : (raiseCause c s).lp.ownWait = s.lp.ownWait := by
  unfold raiseCause; split <;> rfl
@[simp] theorem raiseCause_lp_inbound (c : Cause) (s : State) : (raiseCause c s).lp.inbound = s.lp.inbound := by
  unfold raiseCause; split <;> rfl
@[simp] theorem raiseCause_lp_service (c : Cause) (s : State) : (raiseCause c s).lp.service = s.lp.service := by
  unfold raiseCause; split <;> rfl
@[simp] theorem raiseCause_lp_general (c : Cause) (s : State) : (raiseCause c s).lp.general = s.lp.general := by
  unfold raiseCause; split <;> rfl
@[simp] theorem raiseCause_lp_resetPart (c : Cause) (s : State) : (raiseCause c s).lp.resetPart = s.lp.resetPart := by
  unfold raiseCause; split <;> rfl
@[simp] theorem raiseCause_lp_lineOut (c : Cause) (s : State) : (raiseCause c s).lp.lineOut = s.lp.lineOut := by
  unfold raiseCause; split <;> rfl
@[simp] theorem raiseCause_lp_counters (c : Cause) (s : State) : (raiseCause c s).lp.counters = s.lp.counters := by
  unfold raiseCause; split <;> rfl
@[simp] theorem raiseCause_rc_endRequested (c : Cause) (s : State) :
    (raiseCause c s).rc.endRequested = s.rc.endRequested := by
  unfold raiseCause; split <;> rfl
@[simp] theorem raiseCause_rc_openCopy (c : Cause) (s : State) : (raiseCause c s).rc.openCopy = s.rc.openCopy := by
  unfold raiseCause; split <;> rfl
@[simp] theorem raiseCause_rc_counters (c : Cause) (s : State) : (raiseCause c s).rc.counters = s.rc.counters := by
  unfold raiseCause; split <;> rfl

/-! `State.setPort`: the read port alone changes. -/

@[simp] theorem setPort_pins (s : State) (p : Port) : (s.setPort p).pins = s.pins := rfl
@[simp] theorem setPort_lp (s : State) (p : Port) : (s.setPort p).lp = s.lp := rfl
@[simp] theorem setPort_queue (s : State) (p : Port) : (s.setPort p).queue = s.queue := rfl
@[simp] theorem setPort_sx (s : State) (p : Port) : (s.setPort p).sx = s.sx := rfl
@[simp] theorem setPort_sw (s : State) (p : Port) : (s.setPort p).sw = s.sw := rfl
@[simp] theorem setPort_rc (s : State) (p : Port) : (s.setPort p).rc = s.rc := rfl
@[simp] theorem setPort_gh (s : State) (p : Port) : (s.setPort p).gh = s.gh := rfl
@[simp] theorem setPort_wt (s : State) (p : Port) : (s.setPort p).wt = s.wt := rfl
@[simp] theorem setPort_st (s : State) (p : Port) : (s.setPort p).st = s.st := rfl
@[simp] theorem setPort_pending (s : State) (p : Port) : (s.setPort p).pending = s.pending := rfl
@[simp] theorem setPort_pl_array (s : State) (p : Port) : (s.setPort p).pl.array = s.pl.array := rfl
@[simp] theorem setPort_pl_table (s : State) (p : Port) : (s.setPort p).pl.table = s.pl.table := rfl
@[simp] theorem setPort_pl_pageBuffer (s : State) (p : Port) : (s.setPort p).pl.pageBuffer = s.pl.pageBuffer := rfl
@[simp] theorem setPort_pl_outcome (s : State) (p : Port) : (s.setPort p).pl.outcome = s.pl.outcome := rfl
@[simp] theorem setPort_pl_failFlag (s : State) (p : Port) : (s.setPort p).pl.failFlag = s.pl.failFlag := rfl
@[simp] theorem setPort_pl_op (s : State) (p : Port) : (s.setPort p).pl.op = s.pl.op := rfl

@[simp] theorem setPort_pl_port (s : State) (p : Port) : (s.setPort p).pl.port = p := rfl

/-! `State.countRun`: the counters of Run Control alone change. -/

@[simp] theorem countRun_pins (s : State) (f : RunCounters → RunCounters) : (s.countRun f).pins = s.pins := rfl
@[simp] theorem countRun_lp (s : State) (f : RunCounters → RunCounters) : (s.countRun f).lp = s.lp := rfl
@[simp] theorem countRun_pl (s : State) (f : RunCounters → RunCounters) : (s.countRun f).pl = s.pl := rfl
@[simp] theorem countRun_queue (s : State) (f : RunCounters → RunCounters) : (s.countRun f).queue = s.queue := rfl
@[simp] theorem countRun_sx (s : State) (f : RunCounters → RunCounters) : (s.countRun f).sx = s.sx := rfl
@[simp] theorem countRun_sw (s : State) (f : RunCounters → RunCounters) : (s.countRun f).sw = s.sw := rfl
@[simp] theorem countRun_gh (s : State) (f : RunCounters → RunCounters) : (s.countRun f).gh = s.gh := rfl
@[simp] theorem countRun_wt (s : State) (f : RunCounters → RunCounters) : (s.countRun f).wt = s.wt := rfl
@[simp] theorem countRun_st (s : State) (f : RunCounters → RunCounters) : (s.countRun f).st = s.st := rfl
@[simp] theorem countRun_pending (s : State) (f : RunCounters → RunCounters) : (s.countRun f).pending = s.pending := rfl
@[simp] theorem countRun_rc_causes (s : State) (f : RunCounters → RunCounters) :
    (s.countRun f).rc.causes = s.rc.causes := rfl
@[simp] theorem countRun_rc_endRequested (s : State) (f : RunCounters → RunCounters) :
    (s.countRun f).rc.endRequested = s.rc.endRequested := rfl
@[simp] theorem countRun_rc_silence (s : State) (f : RunCounters → RunCounters) :
    (s.countRun f).rc.silence = s.rc.silence := rfl
@[simp] theorem countRun_rc_holdDriven (s : State) (f : RunCounters → RunCounters) :
    (s.countRun f).rc.holdDriven = s.rc.holdDriven := rfl
@[simp] theorem countRun_rc_holdSeen (s : State) (f : RunCounters → RunCounters) :
    (s.countRun f).rc.holdSeen = s.rc.holdSeen := rfl
@[simp] theorem countRun_rc_openCopy (s : State) (f : RunCounters → RunCounters) :
    (s.countRun f).rc.openCopy = s.rc.openCopy := rfl
@[simp] theorem countRun_rc_state (s : State) (f : RunCounters → RunCounters) : (s.countRun f).rc.state = s.rc.state := rfl

/-! `portNext`: the port, the pause of a step and the suspension count alone change. -/

@[simp] theorem portNext_pins (s : State) : (portNext s).pins = s.pins := by
  unfold portNext suspendStep State.setPort; (repeat' split) <;> rfl
@[simp] theorem portNext_lp (s : State) : (portNext s).lp = s.lp := by
  unfold portNext suspendStep State.setPort; (repeat' split) <;> rfl
@[simp] theorem portNext_queue (s : State) : (portNext s).queue = s.queue := by
  unfold portNext suspendStep State.setPort; (repeat' split) <;> rfl
@[simp] theorem portNext_sx (s : State) : (portNext s).sx = s.sx := by
  unfold portNext suspendStep State.setPort; (repeat' split) <;> rfl
@[simp] theorem portNext_sw (s : State) : (portNext s).sw = s.sw := by
  unfold portNext suspendStep State.setPort; (repeat' split) <;> rfl
@[simp] theorem portNext_gh (s : State) : (portNext s).gh = s.gh := by
  unfold portNext suspendStep State.setPort; (repeat' split) <;> rfl
@[simp] theorem portNext_wt (s : State) : (portNext s).wt = s.wt := by
  unfold portNext suspendStep State.setPort; (repeat' split) <;> rfl
@[simp] theorem portNext_st (s : State) : (portNext s).st = s.st := by
  unfold portNext suspendStep State.setPort; (repeat' split) <;> rfl
@[simp] theorem portNext_pending (s : State) : (portNext s).pending = s.pending := by
  unfold portNext suspendStep State.setPort; (repeat' split) <;> rfl
@[simp] theorem portNext_pl_array (s : State) : (portNext s).pl.array = s.pl.array := by
  unfold portNext suspendStep State.setPort; (repeat' split) <;> rfl
@[simp] theorem portNext_pl_table (s : State) : (portNext s).pl.table = s.pl.table := by
  unfold portNext suspendStep State.setPort; (repeat' split) <;> rfl
@[simp] theorem portNext_pl_pageBuffer (s : State) : (portNext s).pl.pageBuffer = s.pl.pageBuffer := by
  unfold portNext suspendStep State.setPort; (repeat' split) <;> rfl
@[simp] theorem portNext_pl_outcome (s : State) : (portNext s).pl.outcome = s.pl.outcome := by
  unfold portNext suspendStep State.setPort; (repeat' split) <;> rfl
@[simp] theorem portNext_pl_failFlag (s : State) : (portNext s).pl.failFlag = s.pl.failFlag := by
  unfold portNext suspendStep State.setPort; (repeat' split) <;> rfl
@[simp] theorem portNext_rc_causes (s : State) : (portNext s).rc.causes = s.rc.causes := by
  unfold portNext suspendStep State.setPort; (repeat' split) <;> rfl
@[simp] theorem portNext_rc_endRequested (s : State) : (portNext s).rc.endRequested = s.rc.endRequested := by
  unfold portNext suspendStep State.setPort; (repeat' split) <;> rfl
@[simp] theorem portNext_rc_silence (s : State) : (portNext s).rc.silence = s.rc.silence := by
  unfold portNext suspendStep State.setPort; (repeat' split) <;> rfl
@[simp] theorem portNext_rc_holdDriven (s : State) : (portNext s).rc.holdDriven = s.rc.holdDriven := by
  unfold portNext suspendStep State.setPort; (repeat' split) <;> rfl
@[simp] theorem portNext_rc_holdSeen (s : State) : (portNext s).rc.holdSeen = s.rc.holdSeen := by
  unfold portNext suspendStep State.setPort; (repeat' split) <;> rfl
@[simp] theorem portNext_rc_openCopy (s : State) : (portNext s).rc.openCopy = s.rc.openCopy := by
  unfold portNext suspendStep State.setPort; (repeat' split) <;> rfl
@[simp] theorem portNext_rc_state (s : State) : (portNext s).rc.state = s.rc.state := by
  unfold portNext suspendStep State.setPort; (repeat' split) <;> rfl

/-! `dropReads`: the hand and the port alone change. -/

@[simp] theorem dropReads_pins (s : State) : (dropReads s).pins = s.pins := rfl
@[simp] theorem dropReads_lp (s : State) : (dropReads s).lp = s.lp := rfl
@[simp] theorem dropReads_queue (s : State) : (dropReads s).queue = s.queue := rfl
@[simp] theorem dropReads_sw (s : State) : (dropReads s).sw = s.sw := rfl
@[simp] theorem dropReads_rc (s : State) : (dropReads s).rc = s.rc := rfl
@[simp] theorem dropReads_gh (s : State) : (dropReads s).gh = s.gh := rfl
@[simp] theorem dropReads_wt (s : State) : (dropReads s).wt = s.wt := rfl
@[simp] theorem dropReads_st (s : State) : (dropReads s).st = s.st := rfl
@[simp] theorem dropReads_pending (s : State) : (dropReads s).pending = s.pending := rfl
@[simp] theorem dropReads_pl_array (s : State) : (dropReads s).pl.array = s.pl.array := rfl
@[simp] theorem dropReads_pl_table (s : State) : (dropReads s).pl.table = s.pl.table := rfl
@[simp] theorem dropReads_pl_pageBuffer (s : State) : (dropReads s).pl.pageBuffer = s.pl.pageBuffer := rfl
@[simp] theorem dropReads_pl_outcome (s : State) : (dropReads s).pl.outcome = s.pl.outcome := rfl
@[simp] theorem dropReads_pl_failFlag (s : State) : (dropReads s).pl.failFlag = s.pl.failFlag := rfl
@[simp] theorem dropReads_pl_op (s : State) : (dropReads s).pl.op = s.pl.op := rfl
@[simp] theorem dropReads_sx_context (s : State) : (dropReads s).sx.context = s.sx.context := rfl
@[simp] theorem dropReads_sx_checkpoint (s : State) : (dropReads s).sx.checkpoint = s.sx.checkpoint := rfl
@[simp] theorem dropReads_sx_state (s : State) : (dropReads s).sx.state = s.sx.state := rfl

/-! `takeUp`: the expander alone changes. -/

@[simp] theorem takeUp_pins (o : Order) (copy : Nat) (s : State) : (takeUp o copy s).pins = s.pins := by
  unfold takeUp; split <;> rfl
@[simp] theorem takeUp_lp (o : Order) (copy : Nat) (s : State) : (takeUp o copy s).lp = s.lp := by
  unfold takeUp; split <;> rfl
@[simp] theorem takeUp_pl (o : Order) (copy : Nat) (s : State) : (takeUp o copy s).pl = s.pl := by
  unfold takeUp; split <;> rfl
@[simp] theorem takeUp_queue (o : Order) (copy : Nat) (s : State) : (takeUp o copy s).queue = s.queue := by
  unfold takeUp; split <;> rfl
@[simp] theorem takeUp_sw (o : Order) (copy : Nat) (s : State) : (takeUp o copy s).sw = s.sw := by
  unfold takeUp; split <;> rfl
@[simp] theorem takeUp_rc (o : Order) (copy : Nat) (s : State) : (takeUp o copy s).rc = s.rc := by
  unfold takeUp; split <;> rfl
@[simp] theorem takeUp_gh (o : Order) (copy : Nat) (s : State) : (takeUp o copy s).gh = s.gh := by
  unfold takeUp; split <;> rfl
@[simp] theorem takeUp_wt (o : Order) (copy : Nat) (s : State) : (takeUp o copy s).wt = s.wt := by
  unfold takeUp; split <;> rfl
@[simp] theorem takeUp_st (o : Order) (copy : Nat) (s : State) : (takeUp o copy s).st = s.st := by
  unfold takeUp; split <;> rfl
@[simp] theorem takeUp_pending (o : Order) (copy : Nat) (s : State) : (takeUp o copy s).pending = s.pending := by
  unfold takeUp; split <;> rfl
@[simp] theorem takeUp_sx_checkpoint (o : Order) (copy : Nat) (s : State) :
    (takeUp o copy s).sx.checkpoint = s.sx.checkpoint := by
  unfold takeUp; split <;> rfl

/-! `hold`: the expander state alone changes. -/

@[simp] theorem hold_pins (w : HoldReason) (s : State) : (hold w s).pins = s.pins := rfl
@[simp] theorem hold_lp (w : HoldReason) (s : State) : (hold w s).lp = s.lp := rfl
@[simp] theorem hold_pl (w : HoldReason) (s : State) : (hold w s).pl = s.pl := rfl
@[simp] theorem hold_queue (w : HoldReason) (s : State) : (hold w s).queue = s.queue := rfl
@[simp] theorem hold_sw (w : HoldReason) (s : State) : (hold w s).sw = s.sw := rfl
@[simp] theorem hold_rc (w : HoldReason) (s : State) : (hold w s).rc = s.rc := rfl
@[simp] theorem hold_gh (w : HoldReason) (s : State) : (hold w s).gh = s.gh := rfl
@[simp] theorem hold_wt (w : HoldReason) (s : State) : (hold w s).wt = s.wt := rfl
@[simp] theorem hold_st (w : HoldReason) (s : State) : (hold w s).st = s.st := rfl
@[simp] theorem hold_pending (w : HoldReason) (s : State) : (hold w s).pending = s.pending := rfl
@[simp] theorem hold_sx_context (w : HoldReason) (s : State) : (hold w s).sx.context = s.sx.context := rfl
@[simp] theorem hold_sx_hand (w : HoldReason) (s : State) : (hold w s).sx.hand = s.sx.hand := rfl
@[simp] theorem hold_sx_checkpoint (w : HoldReason) (s : State) : (hold w s).sx.checkpoint = s.sx.checkpoint := rfl

/-! `decideNext`: the expander alone changes. -/

@[simp] theorem decideNext_pins (s : State) : (decideNext s).pins = s.pins := by
  unfold decideNext; (repeat' split) <;> simp
@[simp] theorem decideNext_lp (s : State) : (decideNext s).lp = s.lp := by
  unfold decideNext; (repeat' split) <;> simp
@[simp] theorem decideNext_pl (s : State) : (decideNext s).pl = s.pl := by
  unfold decideNext; (repeat' split) <;> simp
@[simp] theorem decideNext_queue (s : State) : (decideNext s).queue = s.queue := by
  unfold decideNext; (repeat' split) <;> simp
@[simp] theorem decideNext_sw (s : State) : (decideNext s).sw = s.sw := by
  unfold decideNext; (repeat' split) <;> simp
@[simp] theorem decideNext_rc (s : State) : (decideNext s).rc = s.rc := by
  unfold decideNext; (repeat' split) <;> simp
@[simp] theorem decideNext_gh (s : State) : (decideNext s).gh = s.gh := by
  unfold decideNext; (repeat' split) <;> simp
@[simp] theorem decideNext_wt (s : State) : (decideNext s).wt = s.wt := by
  unfold decideNext; (repeat' split) <;> simp
@[simp] theorem decideNext_st (s : State) : (decideNext s).st = s.st := by
  unfold decideNext; (repeat' split) <;> simp
@[simp] theorem decideNext_pending (s : State) : (decideNext s).pending = s.pending := by
  unfold decideNext; (repeat' split) <;> simp
@[simp] theorem decideNext_sx_checkpoint (s : State) : (decideNext s).sx.checkpoint = s.sx.checkpoint := by
  unfold decideNext; (repeat' split) <;> simp

/-! `askSegment`: the read port alone changes. -/

@[simp] theorem askSegment_pins (i : Nat) (s : State) : (askSegment i s).pins = s.pins := by
  unfold askSegment; dsimp only; (repeat' split) <;> rfl
@[simp] theorem askSegment_lp (i : Nat) (s : State) : (askSegment i s).lp = s.lp := by
  unfold askSegment; dsimp only; (repeat' split) <;> rfl
@[simp] theorem askSegment_queue (i : Nat) (s : State) : (askSegment i s).queue = s.queue := by
  unfold askSegment; dsimp only; (repeat' split) <;> rfl
@[simp] theorem askSegment_sx (i : Nat) (s : State) : (askSegment i s).sx = s.sx := by
  unfold askSegment; dsimp only; (repeat' split) <;> rfl
@[simp] theorem askSegment_sw (i : Nat) (s : State) : (askSegment i s).sw = s.sw := by
  unfold askSegment; dsimp only; (repeat' split) <;> rfl
@[simp] theorem askSegment_rc (i : Nat) (s : State) : (askSegment i s).rc = s.rc := by
  unfold askSegment; dsimp only; (repeat' split) <;> rfl
@[simp] theorem askSegment_gh (i : Nat) (s : State) : (askSegment i s).gh = s.gh := by
  unfold askSegment; dsimp only; (repeat' split) <;> rfl
@[simp] theorem askSegment_wt (i : Nat) (s : State) : (askSegment i s).wt = s.wt := by
  unfold askSegment; dsimp only; (repeat' split) <;> rfl
@[simp] theorem askSegment_st (i : Nat) (s : State) : (askSegment i s).st = s.st := by
  unfold askSegment; dsimp only; (repeat' split) <;> rfl
@[simp] theorem askSegment_pending (i : Nat) (s : State) : (askSegment i s).pending = s.pending := by
  unfold askSegment; dsimp only; (repeat' split) <;> rfl
@[simp] theorem askSegment_pl_array (i : Nat) (s : State) : (askSegment i s).pl.array = s.pl.array := by
  unfold askSegment; dsimp only; (repeat' split) <;> rfl
@[simp] theorem askSegment_pl_table (i : Nat) (s : State) : (askSegment i s).pl.table = s.pl.table := by
  unfold askSegment; dsimp only; (repeat' split) <;> rfl
@[simp] theorem askSegment_pl_pageBuffer (i : Nat) (s : State) : (askSegment i s).pl.pageBuffer = s.pl.pageBuffer := by
  unfold askSegment; dsimp only; (repeat' split) <;> rfl
@[simp] theorem askSegment_pl_outcome (i : Nat) (s : State) : (askSegment i s).pl.outcome = s.pl.outcome := by
  unfold askSegment; dsimp only; (repeat' split) <;> rfl
@[simp] theorem askSegment_pl_failFlag (i : Nat) (s : State) : (askSegment i s).pl.failFlag = s.pl.failFlag := by
  unfold askSegment; dsimp only; (repeat' split) <;> rfl
@[simp] theorem askSegment_pl_op (i : Nat) (s : State) : (askSegment i s).pl.op = s.pl.op := by
  unfold askSegment; dsimp only; (repeat' split) <;> rfl

/-! `sxSettle`: the expander and the read port alone change. -/

@[simp] theorem sxSettle_pins (n : Nat) (s : State) : (sxSettle n s).pins = s.pins := by
  induction n generalizing s with
  | zero => rfl
  | succ n ih => unfold sxSettle; (repeat' split) <;> simp [ih]
@[simp] theorem sxSettle_lp (n : Nat) (s : State) : (sxSettle n s).lp = s.lp := by
  induction n generalizing s with
  | zero => rfl
  | succ n ih => unfold sxSettle; (repeat' split) <;> simp [ih]
@[simp] theorem sxSettle_queue (n : Nat) (s : State) : (sxSettle n s).queue = s.queue := by
  induction n generalizing s with
  | zero => rfl
  | succ n ih => unfold sxSettle; (repeat' split) <;> simp [ih]
@[simp] theorem sxSettle_sw (n : Nat) (s : State) : (sxSettle n s).sw = s.sw := by
  induction n generalizing s with
  | zero => rfl
  | succ n ih => unfold sxSettle; (repeat' split) <;> simp [ih]
@[simp] theorem sxSettle_rc (n : Nat) (s : State) : (sxSettle n s).rc = s.rc := by
  induction n generalizing s with
  | zero => rfl
  | succ n ih => unfold sxSettle; (repeat' split) <;> simp [ih]
@[simp] theorem sxSettle_gh (n : Nat) (s : State) : (sxSettle n s).gh = s.gh := by
  induction n generalizing s with
  | zero => rfl
  | succ n ih => unfold sxSettle; (repeat' split) <;> simp [ih]
@[simp] theorem sxSettle_wt (n : Nat) (s : State) : (sxSettle n s).wt = s.wt := by
  induction n generalizing s with
  | zero => rfl
  | succ n ih => unfold sxSettle; (repeat' split) <;> simp [ih]
@[simp] theorem sxSettle_st (n : Nat) (s : State) : (sxSettle n s).st = s.st := by
  induction n generalizing s with
  | zero => rfl
  | succ n ih => unfold sxSettle; (repeat' split) <;> simp [ih]
@[simp] theorem sxSettle_pending (n : Nat) (s : State) : (sxSettle n s).pending = s.pending := by
  induction n generalizing s with
  | zero => rfl
  | succ n ih => unfold sxSettle; (repeat' split) <;> simp [ih]
@[simp] theorem sxSettle_pl_array (n : Nat) (s : State) : (sxSettle n s).pl.array = s.pl.array := by
  induction n generalizing s with
  | zero => rfl
  | succ n ih => unfold sxSettle; (repeat' split) <;> simp [ih]
@[simp] theorem sxSettle_pl_table (n : Nat) (s : State) : (sxSettle n s).pl.table = s.pl.table := by
  induction n generalizing s with
  | zero => rfl
  | succ n ih => unfold sxSettle; (repeat' split) <;> simp [ih]
@[simp] theorem sxSettle_pl_pageBuffer (n : Nat) (s : State) : (sxSettle n s).pl.pageBuffer = s.pl.pageBuffer := by
  induction n generalizing s with
  | zero => rfl
  | succ n ih => unfold sxSettle; (repeat' split) <;> simp [ih]
@[simp] theorem sxSettle_pl_outcome (n : Nat) (s : State) : (sxSettle n s).pl.outcome = s.pl.outcome := by
  induction n generalizing s with
  | zero => rfl
  | succ n ih => unfold sxSettle; (repeat' split) <;> simp [ih]
@[simp] theorem sxSettle_pl_failFlag (n : Nat) (s : State) : (sxSettle n s).pl.failFlag = s.pl.failFlag := by
  induction n generalizing s with
  | zero => rfl
  | succ n ih => unfold sxSettle; (repeat' split) <;> simp [ih]
@[simp] theorem sxSettle_pl_op (n : Nat) (s : State) : (sxSettle n s).pl.op = s.pl.op := by
  induction n generalizing s with
  | zero => rfl
  | succ n ih => unfold sxSettle; (repeat' split) <;> simp [ih]
@[simp] theorem sxSettle_sx_checkpoint (n : Nat) (s : State) : (sxSettle n s).sx.checkpoint = s.sx.checkpoint := by
  induction n generalizing s with
  | zero => rfl
  | succ n ih => unfold sxSettle; (repeat' split) <;> simp [ih]

/-! `rcTests`: the run state, the STATE place and the expander state alone change. -/

@[simp] theorem rcTests_pins (s : State) : (rcTests s).pins = s.pins := by
  unfold rcTests; dsimp only; (repeat' split) <;> simp
@[simp] theorem rcTests_pl (s : State) : (rcTests s).pl = s.pl := by
  unfold rcTests; dsimp only; (repeat' split) <;> simp
@[simp] theorem rcTests_queue (s : State) : (rcTests s).queue = s.queue := by
  unfold rcTests; dsimp only; (repeat' split) <;> simp
@[simp] theorem rcTests_sw (s : State) : (rcTests s).sw = s.sw := by
  unfold rcTests; dsimp only; (repeat' split) <;> simp
@[simp] theorem rcTests_gh (s : State) : (rcTests s).gh = s.gh := by
  unfold rcTests; dsimp only; (repeat' split) <;> simp
@[simp] theorem rcTests_wt (s : State) : (rcTests s).wt = s.wt := by
  unfold rcTests; dsimp only; (repeat' split) <;> simp
@[simp] theorem rcTests_st (s : State) : (rcTests s).st = s.st := by
  unfold rcTests; dsimp only; (repeat' split) <;> simp
@[simp] theorem rcTests_pending (s : State) : (rcTests s).pending = s.pending := by
  unfold rcTests; dsimp only; (repeat' split) <;> simp
@[simp] theorem rcTests_lp_engine (s : State) : (rcTests s).lp.engine = s.lp.engine := by
  unfold rcTests; dsimp only; (repeat' split) <;> simp
@[simp] theorem rcTests_lp_cellTime (s : State) : (rcTests s).lp.cellTime = s.lp.cellTime := by
  unfold rcTests; dsimp only; (repeat' split) <;> simp
@[simp] theorem rcTests_lp_filter (s : State) : (rcTests s).lp.filter = s.lp.filter := by
  unfold rcTests; dsimp only; (repeat' split) <;> simp
@[simp] theorem rcTests_lp_node (s : State) : (rcTests s).lp.node = s.lp.node := by
  unfold rcTests; dsimp only; (repeat' split) <;> simp
@[simp] theorem rcTests_lp_ownWait (s : State) : (rcTests s).lp.ownWait = s.lp.ownWait := by
  unfold rcTests; dsimp only; (repeat' split) <;> simp
@[simp] theorem rcTests_lp_inbound (s : State) : (rcTests s).lp.inbound = s.lp.inbound := by
  unfold rcTests; dsimp only; (repeat' split) <;> simp
@[simp] theorem rcTests_lp_service (s : State) : (rcTests s).lp.service = s.lp.service := by
  unfold rcTests; dsimp only; (repeat' split) <;> simp
@[simp] theorem rcTests_lp_general (s : State) : (rcTests s).lp.general = s.lp.general := by
  unfold rcTests; dsimp only; (repeat' split) <;> simp
@[simp] theorem rcTests_lp_resetPart (s : State) : (rcTests s).lp.resetPart = s.lp.resetPart := by
  unfold rcTests; dsimp only; (repeat' split) <;> simp
@[simp] theorem rcTests_lp_lineOut (s : State) : (rcTests s).lp.lineOut = s.lp.lineOut := by
  unfold rcTests; dsimp only; (repeat' split) <;> simp
@[simp] theorem rcTests_lp_counters (s : State) : (rcTests s).lp.counters = s.lp.counters := by
  unfold rcTests; dsimp only; (repeat' split) <;> simp
@[simp] theorem rcTests_rc_causes (s : State) : (rcTests s).rc.causes = s.rc.causes := by
  unfold rcTests; dsimp only; (repeat' split) <;> simp
@[simp] theorem rcTests_rc_endRequested (s : State) : (rcTests s).rc.endRequested = s.rc.endRequested := by
  unfold rcTests; dsimp only; (repeat' split) <;> simp
@[simp] theorem rcTests_rc_silence (s : State) : (rcTests s).rc.silence = s.rc.silence := by
  unfold rcTests; dsimp only; (repeat' split) <;> simp
@[simp] theorem rcTests_rc_holdDriven (s : State) : (rcTests s).rc.holdDriven = s.rc.holdDriven := by
  unfold rcTests; dsimp only; (repeat' split) <;> simp
@[simp] theorem rcTests_rc_holdSeen (s : State) : (rcTests s).rc.holdSeen = s.rc.holdSeen := by
  unfold rcTests; dsimp only; (repeat' split) <;> simp
@[simp] theorem rcTests_rc_openCopy (s : State) : (rcTests s).rc.openCopy = s.rc.openCopy := by
  unfold rcTests; dsimp only; (repeat' split) <;> simp
@[simp] theorem rcTests_rc_counters (s : State) : (rcTests s).rc.counters = s.rc.counters := by
  unfold rcTests; dsimp only; (repeat' split) <;> simp
@[simp] theorem rcTests_sx_context (s : State) : (rcTests s).sx.context = s.sx.context := by
  unfold rcTests; dsimp only; (repeat' split) <;> simp
@[simp] theorem rcTests_sx_hand (s : State) : (rcTests s).sx.hand = s.sx.hand := by
  unfold rcTests; dsimp only; (repeat' split) <;> simp
@[simp] theorem rcTests_sx_checkpoint (s : State) : (rcTests s).sx.checkpoint = s.sx.checkpoint := by
  unfold rcTests; dsimp only; (repeat' split) <;> simp

/-! `settle`: the expander, the run state, the STATE place, the read port and the pause of a step alone change. -/

@[simp] theorem settle_pins (s : State) : (settle s).pins = s.pins := by
  unfold settle; simp
@[simp] theorem settle_queue (s : State) : (settle s).queue = s.queue := by
  unfold settle; simp
@[simp] theorem settle_sw (s : State) : (settle s).sw = s.sw := by
  unfold settle; simp
@[simp] theorem settle_gh (s : State) : (settle s).gh = s.gh := by
  unfold settle; simp
@[simp] theorem settle_wt (s : State) : (settle s).wt = s.wt := by
  unfold settle; simp
@[simp] theorem settle_st (s : State) : (settle s).st = s.st := by
  unfold settle; simp
@[simp] theorem settle_pending (s : State) : (settle s).pending = s.pending := by
  unfold settle; simp
@[simp] theorem settle_pl_array (s : State) : (settle s).pl.array = s.pl.array := by
  unfold settle; simp
@[simp] theorem settle_pl_table (s : State) : (settle s).pl.table = s.pl.table := by
  unfold settle; simp
@[simp] theorem settle_pl_pageBuffer (s : State) : (settle s).pl.pageBuffer = s.pl.pageBuffer := by
  unfold settle; simp
@[simp] theorem settle_pl_outcome (s : State) : (settle s).pl.outcome = s.pl.outcome := by
  unfold settle; simp
@[simp] theorem settle_pl_failFlag (s : State) : (settle s).pl.failFlag = s.pl.failFlag := by
  unfold settle; simp
@[simp] theorem settle_rc_causes (s : State) : (settle s).rc.causes = s.rc.causes := by
  unfold settle; simp
@[simp] theorem settle_rc_endRequested (s : State) : (settle s).rc.endRequested = s.rc.endRequested := by
  unfold settle; simp
@[simp] theorem settle_rc_silence (s : State) : (settle s).rc.silence = s.rc.silence := by
  unfold settle; simp
@[simp] theorem settle_rc_holdDriven (s : State) : (settle s).rc.holdDriven = s.rc.holdDriven := by
  unfold settle; simp
@[simp] theorem settle_rc_holdSeen (s : State) : (settle s).rc.holdSeen = s.rc.holdSeen := by
  unfold settle; simp
@[simp] theorem settle_rc_openCopy (s : State) : (settle s).rc.openCopy = s.rc.openCopy := by
  unfold settle; simp
@[simp] theorem settle_lp_engine (s : State) : (settle s).lp.engine = s.lp.engine := by
  unfold settle; simp
@[simp] theorem settle_lp_cellTime (s : State) : (settle s).lp.cellTime = s.lp.cellTime := by
  unfold settle; simp
@[simp] theorem settle_lp_filter (s : State) : (settle s).lp.filter = s.lp.filter := by
  unfold settle; simp
@[simp] theorem settle_lp_node (s : State) : (settle s).lp.node = s.lp.node := by
  unfold settle; simp
@[simp] theorem settle_lp_ownWait (s : State) : (settle s).lp.ownWait = s.lp.ownWait := by
  unfold settle; simp
@[simp] theorem settle_lp_inbound (s : State) : (settle s).lp.inbound = s.lp.inbound := by
  unfold settle; simp
@[simp] theorem settle_lp_service (s : State) : (settle s).lp.service = s.lp.service := by
  unfold settle; simp
@[simp] theorem settle_lp_general (s : State) : (settle s).lp.general = s.lp.general := by
  unfold settle; simp
@[simp] theorem settle_lp_resetPart (s : State) : (settle s).lp.resetPart = s.lp.resetPart := by
  unfold settle; simp
@[simp] theorem settle_lp_lineOut (s : State) : (settle s).lp.lineOut = s.lp.lineOut := by
  unfold settle; simp
@[simp] theorem settle_lp_counters (s : State) : (settle s).lp.counters = s.lp.counters := by
  unfold settle; simp
@[simp] theorem settle_sx_checkpoint (s : State) : (settle s).sx.checkpoint = s.sx.checkpoint := by
  unfold settle; simp

/-! `startExpander`: the expander and the read port alone change. -/

@[simp] theorem startExpander_pins (s : State) : (startExpander s).pins = s.pins := by
  unfold startExpander; dsimp only; split <;> simp
@[simp] theorem startExpander_lp (s : State) : (startExpander s).lp = s.lp := by
  unfold startExpander; dsimp only; split <;> simp
@[simp] theorem startExpander_queue (s : State) : (startExpander s).queue = s.queue := by
  unfold startExpander; dsimp only; split <;> simp
@[simp] theorem startExpander_sw (s : State) : (startExpander s).sw = s.sw := by
  unfold startExpander; dsimp only; split <;> simp
@[simp] theorem startExpander_rc (s : State) : (startExpander s).rc = s.rc := by
  unfold startExpander; dsimp only; split <;> simp
@[simp] theorem startExpander_gh (s : State) : (startExpander s).gh = s.gh := by
  unfold startExpander; dsimp only; split <;> simp
@[simp] theorem startExpander_wt (s : State) : (startExpander s).wt = s.wt := by
  unfold startExpander; dsimp only; split <;> simp
@[simp] theorem startExpander_st (s : State) : (startExpander s).st = s.st := by
  unfold startExpander; dsimp only; split <;> simp
@[simp] theorem startExpander_pending (s : State) : (startExpander s).pending = s.pending := by
  unfold startExpander; dsimp only; split <;> simp
@[simp] theorem startExpander_pl_array (s : State) : (startExpander s).pl.array = s.pl.array := by
  unfold startExpander; dsimp only; split <;> simp
@[simp] theorem startExpander_pl_table (s : State) : (startExpander s).pl.table = s.pl.table := by
  unfold startExpander; dsimp only; split <;> simp
@[simp] theorem startExpander_pl_pageBuffer (s : State) : (startExpander s).pl.pageBuffer = s.pl.pageBuffer := by
  unfold startExpander; dsimp only; split <;> simp
@[simp] theorem startExpander_pl_outcome (s : State) : (startExpander s).pl.outcome = s.pl.outcome := by
  unfold startExpander; dsimp only; split <;> simp
@[simp] theorem startExpander_pl_failFlag (s : State) : (startExpander s).pl.failFlag = s.pl.failFlag := by
  unfold startExpander; dsimp only; split <;> simp
@[simp] theorem startExpander_pl_op (s : State) : (startExpander s).pl.op = s.pl.op := by
  unfold startExpander; dsimp only; split <;> simp

/-! `rollback`: the expander and the read port alone change. -/

@[simp] theorem rollback_pins (s : State) : (rollback s).pins = s.pins := by
  unfold rollback; dsimp only; split <;> simp
@[simp] theorem rollback_lp (s : State) : (rollback s).lp = s.lp := by
  unfold rollback; dsimp only; split <;> simp
@[simp] theorem rollback_queue (s : State) : (rollback s).queue = s.queue := by
  unfold rollback; dsimp only; split <;> simp
@[simp] theorem rollback_sw (s : State) : (rollback s).sw = s.sw := by
  unfold rollback; dsimp only; split <;> simp
@[simp] theorem rollback_rc (s : State) : (rollback s).rc = s.rc := by
  unfold rollback; dsimp only; split <;> simp
@[simp] theorem rollback_gh (s : State) : (rollback s).gh = s.gh := by
  unfold rollback; dsimp only; split <;> simp
@[simp] theorem rollback_wt (s : State) : (rollback s).wt = s.wt := by
  unfold rollback; dsimp only; split <;> simp
@[simp] theorem rollback_st (s : State) : (rollback s).st = s.st := by
  unfold rollback; dsimp only; split <;> simp
@[simp] theorem rollback_pending (s : State) : (rollback s).pending = s.pending := by
  unfold rollback; dsimp only; split <;> simp
@[simp] theorem rollback_pl_array (s : State) : (rollback s).pl.array = s.pl.array := by
  unfold rollback; dsimp only; split <;> simp
@[simp] theorem rollback_pl_table (s : State) : (rollback s).pl.table = s.pl.table := by
  unfold rollback; dsimp only; split <;> simp
@[simp] theorem rollback_pl_pageBuffer (s : State) : (rollback s).pl.pageBuffer = s.pl.pageBuffer := by
  unfold rollback; dsimp only; split <;> simp
@[simp] theorem rollback_pl_outcome (s : State) : (rollback s).pl.outcome = s.pl.outcome := by
  unfold rollback; dsimp only; split <;> simp
@[simp] theorem rollback_pl_failFlag (s : State) : (rollback s).pl.failFlag = s.pl.failFlag := by
  unfold rollback; dsimp only; split <;> simp
@[simp] theorem rollback_pl_op (s : State) : (rollback s).pl.op = s.pl.op := by
  unfold rollback; dsimp only; split <;> simp
@[simp] theorem rollback_sx_checkpoint (s : State) : (rollback s).sx.checkpoint = s.sx.checkpoint := by
  unfold rollback; dsimp only; split <;> simp

/-! `abortExpander`: the expander and the read port alone change. -/

@[simp] theorem abortExpander_pins (s : State) : (abortExpander s).pins = s.pins := rfl
@[simp] theorem abortExpander_lp (s : State) : (abortExpander s).lp = s.lp := rfl
@[simp] theorem abortExpander_queue (s : State) : (abortExpander s).queue = s.queue := rfl
@[simp] theorem abortExpander_sw (s : State) : (abortExpander s).sw = s.sw := rfl
@[simp] theorem abortExpander_rc (s : State) : (abortExpander s).rc = s.rc := rfl
@[simp] theorem abortExpander_gh (s : State) : (abortExpander s).gh = s.gh := rfl
@[simp] theorem abortExpander_wt (s : State) : (abortExpander s).wt = s.wt := rfl
@[simp] theorem abortExpander_st (s : State) : (abortExpander s).st = s.st := rfl
@[simp] theorem abortExpander_pending (s : State) : (abortExpander s).pending = s.pending := rfl
@[simp] theorem abortExpander_pl_array (s : State) : (abortExpander s).pl.array = s.pl.array := rfl
@[simp] theorem abortExpander_pl_table (s : State) : (abortExpander s).pl.table = s.pl.table := rfl
@[simp] theorem abortExpander_pl_pageBuffer (s : State) : (abortExpander s).pl.pageBuffer = s.pl.pageBuffer := rfl
@[simp] theorem abortExpander_pl_outcome (s : State) : (abortExpander s).pl.outcome = s.pl.outcome := rfl
@[simp] theorem abortExpander_pl_failFlag (s : State) : (abortExpander s).pl.failFlag = s.pl.failFlag := rfl
@[simp] theorem abortExpander_pl_op (s : State) : (abortExpander s).pl.op = s.pl.op := rfl

/-! `appendRecord`: the window, the reservations and the expander alone change. -/

@[simp] theorem appendRecord_pins (m : Making) (tag : Word16) (copy : Nat) (f l : Bool) (s : State) :
    (appendRecord m tag copy f l s).pins = s.pins := rfl
@[simp] theorem appendRecord_lp (m : Making) (tag : Word16) (copy : Nat) (f l : Bool) (s : State) :
    (appendRecord m tag copy f l s).lp = s.lp := rfl
@[simp] theorem appendRecord_pl (m : Making) (tag : Word16) (copy : Nat) (f l : Bool) (s : State) :
    (appendRecord m tag copy f l s).pl = s.pl := rfl
@[simp] theorem appendRecord_queue (m : Making) (tag : Word16) (copy : Nat) (f l : Bool) (s : State) :
    (appendRecord m tag copy f l s).queue = s.queue := rfl
@[simp] theorem appendRecord_rc (m : Making) (tag : Word16) (copy : Nat) (f l : Bool) (s : State) :
    (appendRecord m tag copy f l s).rc = s.rc := rfl
@[simp] theorem appendRecord_gh (m : Making) (tag : Word16) (copy : Nat) (f l : Bool) (s : State) :
    (appendRecord m tag copy f l s).gh = s.gh := rfl
@[simp] theorem appendRecord_st (m : Making) (tag : Word16) (copy : Nat) (f l : Bool) (s : State) :
    (appendRecord m tag copy f l s).st = s.st := rfl
@[simp] theorem appendRecord_pending (m : Making) (tag : Word16) (copy : Nat) (f l : Bool) (s : State) :
    (appendRecord m tag copy f l s).pending = s.pending := rfl
@[simp] theorem appendRecord_sx_checkpoint (m : Making) (tag : Word16) (copy : Nat) (f l : Bool) (s : State) :
    (appendRecord m tag copy f l s).sx.checkpoint = s.sx.checkpoint := rfl

/-! `completeCopy`: the Line Port, the counters and note of Run Control, the queue and the cut list alone change. -/

@[simp] theorem completeCopy_pins (r : Record) (s : State) : (completeCopy r s).pins = s.pins := by
  unfold completeCopy; split <;> rfl
@[simp] theorem completeCopy_pl (r : Record) (s : State) : (completeCopy r s).pl = s.pl := by
  unfold completeCopy; split <;> rfl
@[simp] theorem completeCopy_sx (r : Record) (s : State) : (completeCopy r s).sx = s.sx := by
  unfold completeCopy; split <;> rfl
@[simp] theorem completeCopy_sw (r : Record) (s : State) : (completeCopy r s).sw = s.sw := by
  unfold completeCopy; split <;> rfl
@[simp] theorem completeCopy_gh (r : Record) (s : State) : (completeCopy r s).gh = s.gh := by
  unfold completeCopy; split <;> rfl
@[simp] theorem completeCopy_st (r : Record) (s : State) : (completeCopy r s).st = s.st := by
  unfold completeCopy; split <;> rfl
@[simp] theorem completeCopy_pending (r : Record) (s : State) : (completeCopy r s).pending = s.pending := by
  unfold completeCopy; split <;> rfl
@[simp] theorem completeCopy_rc_causes (r : Record) (s : State) : (completeCopy r s).rc.causes = s.rc.causes := by
  unfold completeCopy; split <;> rfl
@[simp] theorem completeCopy_rc_endRequested (r : Record) (s : State) :
    (completeCopy r s).rc.endRequested = s.rc.endRequested := by
  unfold completeCopy; split <;> rfl
@[simp] theorem completeCopy_rc_silence (r : Record) (s : State) : (completeCopy r s).rc.silence = s.rc.silence := by
  unfold completeCopy; split <;> rfl
@[simp] theorem completeCopy_rc_holdDriven (r : Record) (s : State) :
    (completeCopy r s).rc.holdDriven = s.rc.holdDriven := by
  unfold completeCopy; split <;> rfl
@[simp] theorem completeCopy_rc_holdSeen (r : Record) (s : State) : (completeCopy r s).rc.holdSeen = s.rc.holdSeen := by
  unfold completeCopy; split <;> rfl
@[simp] theorem completeCopy_rc_state (r : Record) (s : State) : (completeCopy r s).rc.state = s.rc.state := by
  unfold completeCopy; split <;> rfl

/-! `placesFreed`: beside what settles, waiting records join. -/

@[simp] theorem placesFreed_pins (s : State) : (placesFreed s).pins = s.pins := by
  unfold placesFreed; simp
@[simp] theorem placesFreed_queue (s : State) : (placesFreed s).queue = s.queue := by
  unfold placesFreed; simp
@[simp] theorem placesFreed_gh (s : State) : (placesFreed s).gh = s.gh := by
  unfold placesFreed; simp
@[simp] theorem placesFreed_wt (s : State) : (placesFreed s).wt = s.wt := by
  unfold placesFreed; simp
@[simp] theorem placesFreed_st (s : State) : (placesFreed s).st = s.st := by
  unfold placesFreed; simp
@[simp] theorem placesFreed_pending (s : State) : (placesFreed s).pending = s.pending := by
  unfold placesFreed; simp
@[simp] theorem placesFreed_pl_array (s : State) : (placesFreed s).pl.array = s.pl.array := by
  unfold placesFreed; simp
@[simp] theorem placesFreed_pl_table (s : State) : (placesFreed s).pl.table = s.pl.table := by
  unfold placesFreed; simp
@[simp] theorem placesFreed_pl_pageBuffer (s : State) : (placesFreed s).pl.pageBuffer = s.pl.pageBuffer := by
  unfold placesFreed; simp
@[simp] theorem placesFreed_pl_outcome (s : State) : (placesFreed s).pl.outcome = s.pl.outcome := by
  unfold placesFreed; simp
@[simp] theorem placesFreed_pl_failFlag (s : State) : (placesFreed s).pl.failFlag = s.pl.failFlag := by
  unfold placesFreed; simp
@[simp] theorem placesFreed_rc_causes (s : State) : (placesFreed s).rc.causes = s.rc.causes := by
  unfold placesFreed; simp
@[simp] theorem placesFreed_rc_endRequested (s : State) : (placesFreed s).rc.endRequested = s.rc.endRequested := by
  unfold placesFreed; simp
@[simp] theorem placesFreed_rc_silence (s : State) : (placesFreed s).rc.silence = s.rc.silence := by
  unfold placesFreed; simp
@[simp] theorem placesFreed_rc_holdDriven (s : State) : (placesFreed s).rc.holdDriven = s.rc.holdDriven := by
  unfold placesFreed; simp
@[simp] theorem placesFreed_rc_holdSeen (s : State) : (placesFreed s).rc.holdSeen = s.rc.holdSeen := by
  unfold placesFreed; simp
@[simp] theorem placesFreed_rc_openCopy (s : State) : (placesFreed s).rc.openCopy = s.rc.openCopy := by
  unfold placesFreed; simp
@[simp] theorem placesFreed_lp_engine (s : State) : (placesFreed s).lp.engine = s.lp.engine := by
  unfold placesFreed; simp
@[simp] theorem placesFreed_lp_cellTime (s : State) : (placesFreed s).lp.cellTime = s.lp.cellTime := by
  unfold placesFreed; simp
@[simp] theorem placesFreed_lp_filter (s : State) : (placesFreed s).lp.filter = s.lp.filter := by
  unfold placesFreed; simp
@[simp] theorem placesFreed_lp_node (s : State) : (placesFreed s).lp.node = s.lp.node := by
  unfold placesFreed; simp
@[simp] theorem placesFreed_lp_ownWait (s : State) : (placesFreed s).lp.ownWait = s.lp.ownWait := by
  unfold placesFreed; simp
@[simp] theorem placesFreed_lp_inbound (s : State) : (placesFreed s).lp.inbound = s.lp.inbound := by
  unfold placesFreed; simp
@[simp] theorem placesFreed_lp_service (s : State) : (placesFreed s).lp.service = s.lp.service := by
  unfold placesFreed; simp
@[simp] theorem placesFreed_lp_general (s : State) : (placesFreed s).lp.general = s.lp.general := by
  unfold placesFreed; simp
@[simp] theorem placesFreed_lp_resetPart (s : State) : (placesFreed s).lp.resetPart = s.lp.resetPart := by
  unfold placesFreed; simp
@[simp] theorem placesFreed_lp_lineOut (s : State) : (placesFreed s).lp.lineOut = s.lp.lineOut := by
  unfold placesFreed; simp
@[simp] theorem placesFreed_lp_counters (s : State) : (placesFreed s).lp.counters = s.lp.counters := by
  unfold placesFreed; simp
@[simp] theorem placesFreed_sx_checkpoint (s : State) : (placesFreed s).sx.checkpoint = s.sx.checkpoint := by
  unfold placesFreed; simp

/-! `retire`: settings, pins and the queue of commands stay. -/

@[simp] theorem retire_pins (r : Record) (s : State) : (retire r s).pins = s.pins := by
  unfold retire; dsimp only; (repeat' split) <;> simp
@[simp] theorem retire_st (r : Record) (s : State) : (retire r s).st = s.st := by
  unfold retire; dsimp only; (repeat' split) <;> simp
@[simp] theorem retire_pending (r : Record) (s : State) : (retire r s).pending = s.pending := by
  unfold retire; dsimp only; (repeat' split) <;> simp
@[simp] theorem retire_pl_array (r : Record) (s : State) : (retire r s).pl.array = s.pl.array := by
  unfold retire; dsimp only; (repeat' split) <;> simp
@[simp] theorem retire_pl_table (r : Record) (s : State) : (retire r s).pl.table = s.pl.table := by
  unfold retire; dsimp only; (repeat' split) <;> simp
@[simp] theorem retire_pl_pageBuffer (r : Record) (s : State) : (retire r s).pl.pageBuffer = s.pl.pageBuffer := by
  unfold retire; dsimp only; (repeat' split) <;> simp
@[simp] theorem retire_pl_outcome (r : Record) (s : State) : (retire r s).pl.outcome = s.pl.outcome := by
  unfold retire; dsimp only; (repeat' split) <;> simp
@[simp] theorem retire_pl_failFlag (r : Record) (s : State) : (retire r s).pl.failFlag = s.pl.failFlag := by
  unfold retire; dsimp only; (repeat' split) <;> simp
@[simp] theorem retire_rc_causes (r : Record) (s : State) : (retire r s).rc.causes = s.rc.causes := by
  unfold retire; dsimp only; (repeat' split) <;> simp
@[simp] theorem retire_rc_endRequested (r : Record) (s : State) : (retire r s).rc.endRequested = s.rc.endRequested := by
  unfold retire; dsimp only; (repeat' split) <;> simp
@[simp] theorem retire_rc_silence (r : Record) (s : State) : (retire r s).rc.silence = s.rc.silence := by
  unfold retire; dsimp only; (repeat' split) <;> simp
@[simp] theorem retire_rc_holdDriven (r : Record) (s : State) : (retire r s).rc.holdDriven = s.rc.holdDriven := by
  unfold retire; dsimp only; (repeat' split) <;> simp
@[simp] theorem retire_rc_holdSeen (r : Record) (s : State) : (retire r s).rc.holdSeen = s.rc.holdSeen := by
  unfold retire; dsimp only; (repeat' split) <;> simp

/-! `retireReposition`: the queue, settings, pins and the queue of commands stay. -/

@[simp] theorem retireReposition_pins (r : Record) (s : State) : (retireReposition r s).pins = s.pins := by
  unfold retireReposition; dsimp only; simp
@[simp] theorem retireReposition_queue (r : Record) (s : State) : (retireReposition r s).queue = s.queue := by
  unfold retireReposition; dsimp only; simp
@[simp] theorem retireReposition_st (r : Record) (s : State) : (retireReposition r s).st = s.st := by
  unfold retireReposition; dsimp only; simp
@[simp] theorem retireReposition_pending (r : Record) (s : State) : (retireReposition r s).pending = s.pending := by
  unfold retireReposition; dsimp only; simp
@[simp] theorem retireReposition_pl_array (r : Record) (s : State) : (retireReposition r s).pl.array = s.pl.array := by
  unfold retireReposition; dsimp only; simp
@[simp] theorem retireReposition_pl_table (r : Record) (s : State) : (retireReposition r s).pl.table = s.pl.table := by
  unfold retireReposition; dsimp only; simp
@[simp] theorem retireReposition_pl_pageBuffer (r : Record) (s : State) :
    (retireReposition r s).pl.pageBuffer = s.pl.pageBuffer := by
  unfold retireReposition; dsimp only; simp
@[simp] theorem retireReposition_pl_outcome (r : Record) (s : State) :
    (retireReposition r s).pl.outcome = s.pl.outcome := by
  unfold retireReposition; dsimp only; simp
@[simp] theorem retireReposition_pl_failFlag (r : Record) (s : State) :
    (retireReposition r s).pl.failFlag = s.pl.failFlag := by
  unfold retireReposition; dsimp only; simp
@[simp] theorem retireReposition_rc_causes (r : Record) (s : State) : (retireReposition r s).rc.causes = s.rc.causes := by
  unfold retireReposition; dsimp only; simp
@[simp] theorem retireReposition_rc_endRequested (r : Record) (s : State) :
    (retireReposition r s).rc.endRequested = s.rc.endRequested := by
  unfold retireReposition; dsimp only; simp
@[simp] theorem retireReposition_rc_silence (r : Record) (s : State) :
    (retireReposition r s).rc.silence = s.rc.silence := by
  unfold retireReposition; dsimp only; simp
@[simp] theorem retireReposition_rc_holdDriven (r : Record) (s : State) :
    (retireReposition r s).rc.holdDriven = s.rc.holdDriven := by
  unfold retireReposition; dsimp only; simp
@[simp] theorem retireReposition_rc_holdSeen (r : Record) (s : State) :
    (retireReposition r s).rc.holdSeen = s.rc.holdSeen := by
  unfold retireReposition; dsimp only; simp
@[simp] theorem retireReposition_lp_engine (r : Record) (s : State) : (retireReposition r s).lp.engine = s.lp.engine := by
  unfold retireReposition; dsimp only; simp
@[simp] theorem retireReposition_lp_cellTime (r : Record) (s : State) :
    (retireReposition r s).lp.cellTime = s.lp.cellTime := by
  unfold retireReposition; dsimp only; simp
@[simp] theorem retireReposition_lp_filter (r : Record) (s : State) : (retireReposition r s).lp.filter = s.lp.filter := by
  unfold retireReposition; dsimp only; simp
@[simp] theorem retireReposition_lp_node (r : Record) (s : State) : (retireReposition r s).lp.node = s.lp.node := by
  unfold retireReposition; dsimp only; simp
@[simp] theorem retireReposition_lp_ownWait (r : Record) (s : State) :
    (retireReposition r s).lp.ownWait = s.lp.ownWait := by
  unfold retireReposition; dsimp only; simp
@[simp] theorem retireReposition_lp_inbound (r : Record) (s : State) :
    (retireReposition r s).lp.inbound = s.lp.inbound := by
  unfold retireReposition; dsimp only; simp
@[simp] theorem retireReposition_lp_service (r : Record) (s : State) :
    (retireReposition r s).lp.service = s.lp.service := by
  unfold retireReposition; dsimp only; simp
@[simp] theorem retireReposition_lp_general (r : Record) (s : State) :
    (retireReposition r s).lp.general = s.lp.general := by
  unfold retireReposition; dsimp only; simp
@[simp] theorem retireReposition_lp_resetPart (r : Record) (s : State) :
    (retireReposition r s).lp.resetPart = s.lp.resetPart := by
  unfold retireReposition; dsimp only; simp
@[simp] theorem retireReposition_lp_lineOut (r : Record) (s : State) :
    (retireReposition r s).lp.lineOut = s.lp.lineOut := by
  unfold retireReposition; dsimp only; simp
@[simp] theorem retireReposition_lp_counters (r : Record) (s : State) :
    (retireReposition r s).lp.counters = s.lp.counters := by
  unfold retireReposition; dsimp only; simp
@[simp] theorem retireReposition_sx_checkpoint (r : Record) (s : State) :
    (retireReposition r s).sx.checkpoint = s.sx.checkpoint := by
  unfold retireReposition; dsimp only; simp

/-! `discard`: the window and the reservations alone change. -/

@[simp] theorem discard_pins (s : State) : (discard s).pins = s.pins := rfl
@[simp] theorem discard_lp (s : State) : (discard s).lp = s.lp := rfl
@[simp] theorem discard_pl (s : State) : (discard s).pl = s.pl := rfl
@[simp] theorem discard_queue (s : State) : (discard s).queue = s.queue := rfl
@[simp] theorem discard_sx (s : State) : (discard s).sx = s.sx := rfl
@[simp] theorem discard_rc (s : State) : (discard s).rc = s.rc := rfl
@[simp] theorem discard_gh (s : State) : (discard s).gh = s.gh := rfl
@[simp] theorem discard_st (s : State) : (discard s).st = s.st := rfl
@[simp] theorem discard_pending (s : State) : (discard s).pending = s.pending := rfl
@[simp] theorem discard_wt_cuts (s : State) : (discard s).wt.cuts = s.wt.cuts := rfl
@[simp] theorem discard_wt_zones (s : State) : (discard s).wt.zones = s.wt.zones := rfl
@[simp] theorem discard_wt_web (s : State) : (discard s).wt.web = s.wt.web := rfl
@[simp] theorem discard_wt_lateral (s : State) : (discard s).wt.lateral = s.wt.lateral := rfl
@[simp] theorem discard_wt_newest (s : State) : (discard s).wt.newest = s.wt.newest := rfl
@[simp] theorem discard_sw_counter (s : State) : (discard s).sw.counter = s.sw.counter := rfl

/-! `handOn`: the Line Port alone changes. -/

@[simp] theorem handOn_pins (r : RequestFrame) (s : State) : (handOn r s).pins = s.pins := by
  unfold handOn; dsimp only; (repeat' split) <;> rfl
@[simp] theorem handOn_pl (r : RequestFrame) (s : State) : (handOn r s).pl = s.pl := by
  unfold handOn; dsimp only; (repeat' split) <;> rfl
@[simp] theorem handOn_queue (r : RequestFrame) (s : State) : (handOn r s).queue = s.queue := by
  unfold handOn; dsimp only; (repeat' split) <;> rfl
@[simp] theorem handOn_sx (r : RequestFrame) (s : State) : (handOn r s).sx = s.sx := by
  unfold handOn; dsimp only; (repeat' split) <;> rfl
@[simp] theorem handOn_sw (r : RequestFrame) (s : State) : (handOn r s).sw = s.sw := by
  unfold handOn; dsimp only; (repeat' split) <;> rfl
@[simp] theorem handOn_rc (r : RequestFrame) (s : State) : (handOn r s).rc = s.rc := by
  unfold handOn; dsimp only; (repeat' split) <;> rfl
@[simp] theorem handOn_gh (r : RequestFrame) (s : State) : (handOn r s).gh = s.gh := by
  unfold handOn; dsimp only; (repeat' split) <;> rfl
@[simp] theorem handOn_wt (r : RequestFrame) (s : State) : (handOn r s).wt = s.wt := by
  unfold handOn; dsimp only; (repeat' split) <;> rfl
@[simp] theorem handOn_st (r : RequestFrame) (s : State) : (handOn r s).st = s.st := by
  unfold handOn; dsimp only; (repeat' split) <;> rfl
@[simp] theorem handOn_pending (r : RequestFrame) (s : State) : (handOn r s).pending = s.pending := by
  unfold handOn; dsimp only; (repeat' split) <;> rfl

end Sys2Proof.Machine
end

