-- ==== Sys2Proof/Laws/Memory.lean ====
section
/-! SUPPORT. The array: every operation keeps its canonical form, and what a byte reads after a write, a program operation or
an erase, and when the setup page's signature stands. -/

namespace Sys2Proof.Machine

/-- Rising addresses, as a proposition. -/
def Rising (mem : List Host.Cell) : Prop := mem.Pairwise fun a b => a.1 < b.1

theorem wf_iff (mem : List Host.Cell) :
    Memory.wf mem = true ↔ Rising mem ∧ ∀ c ∈ mem, c.2 ≠ blankByte := by
  simp [Memory.wf, risingCells, Rising]

theorem mem_setCell {mem : List Host.Cell} {a : Nat} {v : Byte} {c : Host.Cell} (h : c ∈ setCell mem a v) :
    c = (a, v) ∨ c ∈ mem := by
  induction mem with
  | nil => simpa [setCell] using h
  | cons d rest ih =>
    unfold setCell at h
    split at h
    · simpa using h
    · split at h
      · rcases List.mem_cons.1 h with h | h
        · exact .inl h
        · exact .inr (List.mem_cons_of_mem _ h)
      · rcases List.mem_cons.1 h with h | h
        · exact .inr (h ▸ List.mem_cons_self ..)
        · exact (ih h).imp_right (List.mem_cons_of_mem _)

theorem rising_setCell {mem : List Host.Cell} (h : Rising mem) (a : Nat) (v : Byte) : Rising (setCell mem a v) := by
  induction mem with
  | nil => simp [setCell, Rising]
  | cons d rest ih =>
    have hd := List.pairwise_cons.1 h
    unfold setCell
    split
    · rename_i hlt
      refine List.pairwise_cons.2 ⟨fun c hc => ?_, h⟩
      rcases List.mem_cons.1 hc with hc | hc
      · exact hc ▸ hlt
      · exact Nat.lt_trans hlt (hd.1 c hc)
    · split
      · rename_i heq
        exact List.pairwise_cons.2 ⟨fun c hc => heq ▸ hd.1 c hc, hd.2⟩
      · rename_i hlt hne
        refine List.pairwise_cons.2 ⟨fun c hc => ?_, ih hd.2⟩
        rcases mem_setCell hc with hc | hc
        · subst hc; show d.1 < a; omega
        · exact hd.1 c hc

theorem rising_filter {mem : List Host.Cell} (h : Rising mem) (p : Host.Cell → Bool) : Rising (mem.filter p) :=
  List.Pairwise.filter p h

theorem wf_filter {mem : List Host.Cell} (h : Memory.wf mem = true) (p : Host.Cell → Bool) :
    Memory.wf (mem.filter p) = true := by
  rw [wf_iff] at h ⊢
  exact ⟨rising_filter h.1 p, fun c hc => h.2 c (List.mem_filter.1 hc).1⟩

theorem wf_nil : Memory.wf [] = true := by decide

theorem wf_arraySet {mem : List Host.Cell} (h : Memory.wf mem = true) (a : Nat) (v : Byte) :
    Memory.wf (arraySet mem a v) = true := by
  unfold arraySet
  split
  · exact wf_filter h _
  · rename_i hv
    rw [wf_iff] at h ⊢
    refine ⟨rising_setCell h.1 a v, fun c hc => ?_⟩
    rcases mem_setCell hc with hc | hc
    · subst hc; exact hv
    · exact h.2 c hc

theorem wf_arrayProgram {mem : List Host.Cell} (h : Memory.wf mem = true) (a : Nat) (w : Byte) :
    Memory.wf (arrayProgram mem a w) = true := wf_arraySet h a _

theorem wf_arrayErase {mem : List Host.Cell} (h : Memory.wf mem = true) (base size : Nat) :
    Memory.wf (arrayErase mem base size) = true := wf_filter h _

theorem wf_programCells (failed cells : List Host.Cell) {mem : List Host.Cell} (h : Memory.wf mem = true) :
    Memory.wf (programCells mem failed cells) = true := by
  induction cells generalizing mem with
  | nil => exact h
  | cons c rest ih =>
    unfold programCells
    split
    · exact ih h
    · exact ih (wf_arrayProgram h ..)

theorem wf_interruptCells (marks : Bool) (left cells : List Host.Cell) {mem : List Host.Cell}
    (h : Memory.wf mem = true) : Memory.wf (interruptCells mem marks left cells) = true := by
  induction cells generalizing mem with
  | nil => exact h
  | cons c rest ih =>
    unfold interruptCells
    apply ih
    split
    · exact h
    · exact wf_arrayProgram h ..

theorem wf_interruptInOrder (left cells : List Host.Cell) {mem : List Host.Cell}
    (h : Memory.wf mem = true) : Memory.wf (interruptInOrder mem left cells) = true := by
  induction cells generalizing mem with
  | nil => exact h
  | cons c rest ih =>
    unfold interruptInOrder
    split
    · exact ih (wf_arrayProgram h ..)
    · split
      · exact h
      · exact wf_arrayProgram h ..

theorem wf_erased (residue : List Host.Cell) {mem : List Host.Cell} (h : Memory.wf mem = true) (base size : Nat) :
    Memory.wf (erased mem base size residue) = true := by
  induction residue with
  | nil => exact wf_arrayErase h ..
  | cons c rest ih =>
    unfold erased
    split
    · exact wf_arraySet ih ..
    · exact ih

theorem wf_interrupted {l : Library} (h : Memory.wf l.array = true) (left : List Host.Cell) :
    Memory.wf (l.interrupted left) = true := by
  unfold Library.interrupted
  split
  · split
    · exact wf_filter h _
    · split
      · exact wf_interruptInOrder _ _ h
      · exact wf_interruptCells _ _ _ h
  · exact h

theorem wf_expired {l : Library} (h : Memory.wf l.array = true) (left : List Host.Cell) :
    Memory.wf (l.expired left) = true := by
  unfold Library.expired
  (repeat' split) <;> exact wf_interrupted h _

theorem wf_eraseLeaves (w : OpWork) {mem : List Host.Cell} (h : Memory.wf mem = true) (residue : List Host.Cell) :
    Memory.wf (w.eraseLeaves mem residue) = true := by
  unfold OpWork.eraseLeaves
  dsimp only
  (repeat' split) <;> exact wf_erased _ h _ _

theorem wf_cutShort {l : Library} (h : Memory.wf l.array = true) (left : List Host.Cell) :
    Memory.wf (l.cutShort left) = true := by
  unfold Library.cutShort
  split
  · exact wf_programCells _ _ h
  · exact wf_interrupted h left

/-! ### What a byte reads -/

theorem cellAt_setCell (mem : List Host.Cell) (a : Nat) (v : Byte) (x : Nat) :
    cellAt (setCell mem a v) x = if a = x then some v else cellAt mem x := by
  induction mem with
  | nil => simp [setCell, cellAt]
  | cons d rest ih =>
    unfold setCell
    split
    · simp [cellAt]
    · split
      · rename_i h
        by_cases hx : a = x
        · simp [cellAt, hx]
        · have hd : d.1 ≠ x := fun e => hx (h.trans e)
          simp [cellAt, hx, hd]
      · rename_i h1 h2
        by_cases hx : d.1 = x
        · have : a ≠ x := fun e => h2 (e.trans hx.symm)
          simp [cellAt, hx, this]
        · simp [cellAt, hx, ih]

theorem cellAt_filter (mem : List Host.Cell) (p : Nat → Bool) (x : Nat) :
    cellAt (mem.filter fun c => p c.1) x = if p x then cellAt mem x else none := by
  induction mem with
  | nil => simp [cellAt]
  | cons d rest ih =>
    by_cases hd : p d.1 = true
    · rw [List.filter_cons_of_pos (p := fun c : Host.Cell => p c.1) hd]
      unfold cellAt
      by_cases hx : d.1 = x
      · subst hx; rw [if_pos rfl, if_pos rfl, if_pos hd]
      · rw [if_neg hx, if_neg hx, ih]
    · rw [List.filter_cons_of_neg (p := fun c : Host.Cell => p c.1) hd, ih]
      by_cases hx : d.1 = x
      · subst hx; rw [if_neg hd, if_neg hd]
      · rw [cellAt, if_neg hx]

theorem arrayByte_arraySet (mem : List Host.Cell) (a : Nat) (v : Byte) (x : Nat) :
    arrayByte (arraySet mem a v) x = if a = x then v else arrayByte mem x := by
  unfold arrayByte arraySet
  split
  · rename_i hv
    unfold dropCell
    rw [cellAt_filter mem (fun y => y != a) x]
    by_cases hx : a = x
    · subst hx; simp [hv]
    · have : x ≠ a := fun e => hx e.symm
      simp [hx, this]
  · rw [cellAt_setCell]
    by_cases hx : a = x <;> simp [hx]

theorem arrayByte_arrayProgram (mem : List Host.Cell) (a : Nat) (w : Byte) (x : Nat) :
    arrayByte (arrayProgram mem a w) x = if a = x then arrayByte mem a &&& w else arrayByte mem x :=
  arrayByte_arraySet ..

/-- A byte that a program step does not name reads as before, and so does a blank one over which it programs 0xFF. -/
theorem arrayByte_programCells_of_kept (failed cells : List Host.Cell) {mem : List Host.Cell} {a : Nat}
    (h : ∀ c ∈ cells, c.1 = a → c.2 = blankByte ∧ arrayByte mem a = blankByte) :
    arrayByte (programCells mem failed cells) a = arrayByte mem a := by
  induction cells generalizing mem with
  | nil => rfl
  | cons c rest ih =>
    unfold programCells
    split
    · exact ih fun d hd => h d (List.mem_cons_of_mem _ hd)
    · rename_i hc
      have hne : c.1 ≠ a := fun e => hc ⟨(h c List.mem_cons_self e).1, e ▸ (h c List.mem_cons_self e).2⟩
      have hk : ∀ w, arrayByte (arrayProgram mem c.1 w) a = arrayByte mem a := fun w => by
        rw [arrayByte_arrayProgram, if_neg hne]
      rw [ih fun d hd e => by rw [hk]; exact h d (List.mem_cons_of_mem _ hd) e, hk]

/-- A byte that page data do not name reads as before, wherever they are cut short. -/
theorem arrayByte_interruptInOrder_of_other (left cells : List Host.Cell) {mem : List Host.Cell} {a : Nat}
    (h : ∀ c ∈ cells, c.1 ≠ a) : arrayByte (interruptInOrder mem left cells) a = arrayByte mem a := by
  induction cells generalizing mem with
  | nil => rfl
  | cons c rest ih =>
    have hc : c.1 ≠ a := h c List.mem_cons_self
    unfold interruptInOrder
    split
    · rw [ih fun d hd => h d (List.mem_cons_of_mem _ hd), arrayByte_arrayProgram, if_neg hc]
    · split
      · rfl
      · rw [arrayByte_arrayProgram, if_neg hc]

/-- Page data cut short at or behind a byte have changed it to its value ANDed with the intended one. -/
theorem arrayByte_interruptInOrder_of_passed (left before behind : List Host.Cell) (d : Host.Cell) {mem : List Host.Cell}
    (hr : ((before ++ d :: behind).map Prod.fst).Nodup)
    (h : (behind.any fun c => (cellAt left c.1).isSome) = true) :
    arrayByte (interruptInOrder mem left (before ++ d :: behind)) d.1 = arrayByte mem d.1 &&& d.2 := by
  induction before generalizing mem with
  | nil =>
    simp only [List.nil_append, List.map_cons, List.nodup_cons, List.mem_map, not_exists, not_and] at hr
    rw [List.nil_append, interruptInOrder, if_pos h, arrayByte_interruptInOrder_of_other _ _ fun c hc => hr.1 c hc,
      arrayByte_arrayProgram, if_pos rfl]
  | cons c rest ih =>
    have hc : c.1 ≠ d.1 := fun e => by
      simp only [List.cons_append, List.map_cons, List.nodup_cons] at hr
      exact hr.1 (by rw [e]; simp)
    have hp : ((rest ++ d :: behind).any fun c => (cellAt left c.1).isSome) = true := by
      rw [List.any_append, List.any_cons, h]; simp
    rw [List.cons_append, interruptInOrder, if_pos hp, ih (by simpa using (List.nodup_cons.mp (by simpa using hr)).2),
      arrayByte_arrayProgram, if_neg hc]

theorem arrayByte_arrayErase (mem : List Host.Cell) (base size x : Nat) :
    arrayByte (arrayErase mem base size) x = if base ≤ x ∧ x < base + size then blankByte else arrayByte mem x := by
  unfold arrayByte arrayErase
  rw [cellAt_filter mem (fun y => !(decide (base ≤ y) && decide (y < base + size))) x]
  by_cases h : base ≤ x ∧ x < base + size
  · simp [h.1, h.2]
  · rw [if_neg h]
    by_cases h1 : base ≤ x
    · have h2 : ¬ x < base + size := fun h2 => h ⟨h1, h2⟩
      simp [h2]
    · simp [h1]

theorem cellAt_dropCell (cells : List Host.Cell) (a : Nat) : cellAt (dropCell cells a) a = none := by
  unfold dropCell
  rw [cellAt_filter cells (fun y => y != a) a]
  simp

/-- A byte of the erased unit that the residue does not list is blank. -/
theorem arrayByte_erased_of_unlisted (mem residue : List Host.Cell) {base size a : Nat} (h : cellAt residue a = none)
    (hb : base ≤ a ∧ a < base + size) : arrayByte (erased mem base size residue) a = blankByte := by
  induction residue with
  | nil => rw [erased, arrayByte_arrayErase, if_pos hb]
  | cons c rest ih =>
    simp only [cellAt] at h
    split at h
    · cases h
    · rename_i hne
      unfold erased
      split
      · rw [arrayByte_arraySet, if_neg hne, ih h]
      · exact ih h

/-! ### The setup page's signature -/

/-- A page whose signature does not stand is not usable, and the signature is what fails first (R171, R173). -/
theorem readSetupPage_of_no_signature {mem : List Host.Cell} (h : signatureStands mem = false) :
    readSetupPage mem = .error 0 := by
  simp only [signatureStands] at h
  have hs : ((arrayByte mem (setupBase + 0)).toNat == 0xC3 && (arrayByte mem (setupBase + 1)).toNat == 0x5A) = false := by
    rw [Bool.eq_false_iff] at h ⊢
    intro hc
    apply h
    simp only [Bool.and_eq_true, beq_iff_eq, Nat.add_zero] at hc ⊢
    exact ⟨BitVec.eq_of_toNat_eq hc.1, BitVec.eq_of_toNat_eq hc.2⟩
  unfold readSetupPage
  simp only [hs]
  rfl

/-- After the erase of WRITE SETUP that follows a step 1 that succeeded, the signature does not stand (R172). -/
theorem eraseLeaves_no_signature (copy : Settings) (mem residue : List Host.Cell) :
    signatureStands ((OpWork.setup copy false).eraseLeaves mem residue) = false := by
  unfold OpWork.eraseLeaves
  dsimp only
  split
  · have hb : arrayByte (erased mem setupBase 256 (dropCell residue (setupBase + 1))) (setupBase + 1) = blankByte :=
      arrayByte_erased_of_unlisted _ _ (cellAt_dropCell _ _) (by omega)
    simp [signatureStands, OpWork.unit, OpWork.slot, Config.pageBytes, hb, blankByte]
  · rename_i h
    simpa using h

/-- After the expiry of the bound in step 4 of WRITE SETUP the signature does not stand (R172). -/
theorem expired_no_signature {l : Library} {copy : Settings} {zeroFailed interval suspended : Bool} (left : List Host.Cell)
    (h : l.op = some ⟨.setup copy zeroFailed, .stepping .signatureWrite, interval, suspended⟩)
    (hb : arrayByte l.array (setupBase + 1) ≠ 0x5A) : signatureStands (l.expired left) = false := by
  unfold Library.expired
  rw [h]
  dsimp only
  split
  · have hk : arrayByte (l.interrupted (dropCell left (setupBase + 1))) (setupBase + 1) = arrayByte l.array (setupBase + 1) := by
      unfold Library.interrupted
      rw [h]
      simp only [stepErases, stepMarks, OpWork.cells, OpWork.slot, interruptCells, cellAt_dropCell, Bool.false_eq_true, if_false,
        reduceCtorEq]
      split
      · rfl
      · rw [arrayByte_arrayProgram, if_neg (by omega)]
    have hf : (arrayByte l.array (setupBase + 1) == 0x5A) = false := by rw [beq_eq_false_iff_ne]; exact hb
    rw [signatureStands, hk, hf, Bool.and_false]
  · rename_i hs
    simpa using hs

end Sys2Proof.Machine
end

