-- ==== Sys2Proof/Laws/Octets.lean ====
section
/-! SUPPORT. Octets that come apart and together again: what reading a request back from its frame rests on. -/

namespace Sys2Proof

@[simp] theorem word16_octets (x : Word16) : word16 (x.extractLsb' 8 8) (x.extractLsb' 0 8) = x := by
  apply BitVec.eq_of_getLsbD_eq
  intro i hi
  simp only [word16, BitVec.getLsbD_append, BitVec.getLsbD_extractLsb']
  split
  · simp [*]
  · simp only [show i - 8 < 8 by omega, decide_true, Bool.true_and]; congr 1; omega

@[simp] theorem word32_octets (x : Word32) :
    word32 (x.extractLsb' 24 8) (x.extractLsb' 16 8) (x.extractLsb' 8 8) (x.extractLsb' 0 8) = x := by
  apply BitVec.eq_of_getLsbD_eq
  intro i hi
  simp only [word32, BitVec.getLsbD_append, BitVec.getLsbD_extractLsb']
  split
  · simp [*]
  · split
    · simp only [show i - 8 < 8 by omega, decide_true, Bool.true_and]; congr 1; omega
    · split
      · simp only [show i - 8 - 8 < 8 by omega, decide_true, Bool.true_and]; congr 1; omega
      · simp only [show i - 8 - 8 - 8 < 8 by omega, decide_true, Bool.true_and]; congr 1; omega

end Sys2Proof
end

