-- ==== Sys2Proof/Laws/Requests.lean ====
section
/-! SUPPORT. When a request runs its owner's step, and how a property is carried through a request, an event, and the answer. -/

namespace Sys2Proof.Machine

theorem whenReady_of {s : State} (h : s.ready = true) (f : State → State) : whenReady s f = f s := by
  simp [whenReady, h]

theorem whenPowered_of {s : State} (h : s.powered = true) (f : State → State) : whenPowered s f = f s := by
  simp [whenPowered, h]

theorem powered_of_ready {s : State} (h : s.ready = true) : s.powered = true := by
  simp only [State.ready, Bool.and_eq_true] at h; exact h.1

theorem whenReady_keeps {P : State → Prop} {s : State} {f : State → State} (h : P s) (hf : s.ready = true → P (f s)) :
    P (whenReady s f) := by
  unfold whenReady; split
  · exact hf ‹_›
  · exact h

theorem whenPowered_keeps {P : State → Prop} {s : State} {f : State → State} (h : P s)
    (hf : s.powered = true → P (f s)) : P (whenPowered s f) := by
  unfold whenPowered; split
  · exact hf ‹_›
  · exact h

/-- A request in its owner's hands runs the owner's step. -/
theorem takeRequest_serving {c : Instr} {s : State} {sv : Service} (h : Serving s sv c)
    (own : Service → State → State) : takeRequest c own s = own sv s := by
  obtain ⟨hr, hs, hq, hp⟩ := h
  have hno : s.canHandOn = false := by simp [State.canHandOn, hs]
  rw [takeRequest, whenReady_of hr]
  cases he : encodeRequest c <;> simp [hno, hs, hq, hp]

@[simp] theorem handOn_ready (r : RequestFrame) (s : State) : (handOn r s).ready = s.ready := by
  simp [State.ready, State.powered]

/-- Whatever a request does, a property it keeps is one that handing on and the owner's step keep. -/
theorem takeRequest_keeps {P : State → Prop} {c : Instr} {own : Service → State → State} {s : State} (h : P s)
    (hand : ∀ r, s.ready = true → s.canHandOn = true → P (handOn r s))
    (hown : ∀ sv s', P s' → Serving s' sv c → P (own sv s')) : P (takeRequest c own s) := by
  unfold takeRequest
  refine whenReady_keeps h fun hr => ?_
  have key : ∀ s', P s' → s'.ready = true →
      P (match s'.lp.service with
        | some sv => if sv.request = c ∧ sv.phase = .handed then own sv s' else s'
        | none => s') := by
    intro s' hs' hr'
    split
    · rename_i sv hsv
      split
      · rename_i hq
        exact hown sv s' hs' ⟨hr', hsv, hq.1, hq.2⟩
      · exact hs'
    · exact hs'
  dsimp only
  cases he : encodeRequest c with
  | none => exact key s h hr
  | some r =>
    dsimp only
    by_cases hc : (s.canHandOn && s.lp.inbound.isEmpty) = true
    · rw [if_pos hc]
      rw [Bool.and_eq_true] at hc
      exact key _ (hand r hr hc.1) (by simpa using hr)
    · rw [if_neg hc]
      exact key s h hr

/-- The answer leaves the request's place and joins the general places; nothing else of the Line Port changes. -/
theorem answer_lp (sv : Service) (st : Status) (ps : List Byte) (s : State) :
    (answer sv st ps s).lp = { s.lp with
      service := none
      general := s.lp.general ++ [⟨sv.node, .answer, st.code, ps, answerPriority (some sv.role), 0, .none⟩] } := rfl

theorem answerThen_lp (sv : Service) (st : Status) (ps : List Byte) (a : AfterFrame) (s : State) :
    (answerThen sv st ps a s).lp = { s.lp with
      service := none
      general := s.lp.general ++ [⟨sv.node, .answer, st.code, ps, answerPriority (some sv.role), 0, a⟩] } := rfl

theorem serviceWaits_lp (s : State) (sv : Service) (p : ServicePhase) :
    (s.serviceWaits sv p).lp = { s.lp with service := some { sv with phase := p } } := rfl

theorem waitingService_eq {s : State} {p : ServicePhase} {sv : Service} (h : s.waitingService p = some sv) :
    s.lp.service = some sv ∧ sv.phase = p := by
  unfold State.waitingService at h
  rw [Option.filter_eq_some_iff] at h
  exact ⟨h.1, by simpa using h.2⟩

theorem announceState_lp (r : StateReason) (s : State) :
    (announceState r s).lp.statePlace = some (stateFrame s r) := rfl

/-- The port and the pause of the step are all that portNext changes in the operation in hand. -/
theorem portNext_op (s : State) :
    (portNext s).pl.op.map (fun o => (o.work, o.point)) = s.pl.op.map fun o => (o.work, o.point) := by
  unfold portNext suspendStep State.setPort
  (repeat' split) <;> simp_all

theorem settle_op (s : State) :
    (settle s).pl.op.map (fun o => (o.work, o.point)) = s.pl.op.map fun o => (o.work, o.point) := by
  unfold settle
  rw [portNext_op]
  simp

/-- Only the suspension count moves in the counters of Run Control when the part settles. -/
theorem portNext_counters (s : State) :
    ∃ n, (portNext s).rc.counters = { s.rc.counters with suspensions := n } := by
  unfold portNext suspendStep State.setPort
  (repeat' split) <;> first | exact ⟨s.rc.counters.suspensions, rfl⟩ | exact ⟨saturatingSucc s.rc.counters.suspensions, rfl⟩

theorem settle_counters (s : State) : ∃ n, (settle s).rc.counters = { s.rc.counters with suspensions := n } := by
  obtain ⟨n, hn⟩ := portNext_counters (rcTests (sxSettle 4 s))
  exact ⟨n, by simpa [settle] using hn⟩

/-- The run state moves only from PRIMING to RUN or STANDBY, or from RUN to STANDBY, when the part settles. -/
theorem rcTests_state (s : State) :
    (rcTests s).rc.state = s.rc.state ∨ (s.rc.state = .priming ∧ (rcTests s).rc.state = .run) ∨
      ((s.rc.state = .priming ∨ s.rc.state = .run) ∧ (rcTests s).rc.state = .standby) := by
  have hp : s.primed = true → s.rc.state = .priming := fun h => by
    simp only [State.primed, Bool.and_eq_true, decide_eq_true_eq] at h; exact h.1
  have hd : ∀ x : State, x.runDone = true → x.rc.state = .priming ∨ x.rc.state = .run := fun x h => by
    simp only [State.runDone, Bool.and_eq_true, Bool.or_eq_true, decide_eq_true_eq] at h; exact h.1.1
  unfold rcTests
  dsimp only
  by_cases h1 : s.primed = true
  · rw [if_pos h1]
    by_cases h2 : (enterRunState .run .primed s).runDone = true
    · rw [if_pos h2]; exact .inr (.inr ⟨.inl (hp h1), rfl⟩)
    · rw [if_neg h2]; exact .inr (.inl ⟨hp h1, rfl⟩)
  · rw [if_neg h1]
    by_cases h2 : s.runDone = true
    · rw [if_pos h2]; exact .inr (.inr ⟨hd s h2, rfl⟩)
    · rw [if_neg h2]; exact .inl rfl

theorem settle_state (s : State) :
    (settle s).rc.state = s.rc.state ∨ (s.rc.state = .priming ∧ (settle s).rc.state = .run) ∨
      ((s.rc.state = .priming ∨ s.rc.state = .run) ∧ (settle s).rc.state = .standby) := by
  have h := rcTests_state (sxSettle 4 s)
  simpa [settle] using h

/-- Outside PRIMING and RUN settling leaves the run state. -/
theorem settle_state_same {s : State} (h1 : s.rc.state ≠ .priming) (h2 : s.rc.state ≠ .run) :
    (settle s).rc.state = s.rc.state := by
  rcases settle_state s with h | h | h
  · exact h
  · exact absurd h.1 h1
  · exact absurd h.1 (by simp [h1, h2])

end Sys2Proof.Machine
end

