-- ==== Sys2Proof/Laws/Operations.lean ====
section
/-! SUPPORT. One lemma for each shared operation that several statements rest on: the orderings, the line filter and the cells
a transmitter drives, the moves of the expander, the window's waiting records, the marks of a late splice, and an operation that
has ended. -/

namespace Sys2Proof.Machine

/-! ### Orderings -/

theorem liesAfter_eq (a b : Word32) : liesAfter a b = !liesAtOrBefore a b := by
  simp only [liesAfter, liesAtOrBefore, ← decide_not, Int.not_le]

theorem liesAtOrAfter_eq (a b : Word32) : liesAtOrAfter a b = !liesBefore a b := by
  simp only [liesAtOrAfter, liesBefore, ← decide_not, Int.not_lt]

/-! ### The line -/

/-- Where no level is short, the filter shows the cells as they stand. -/
theorem seenAfter_of_long (c : LineCell) (cells : List LineCell)
    (h : ∀ x ∈ c :: cells, shortLevel x.dominant = false ∧ gapShort x = false) : seenAfter c cells = c :: cells := by
  induction cells generalizing c with
  | nil => rfl
  | cons d rest ih =>
    rw [seenAfter, (h c (by simp)).2, (h d (by simp)).1]
    simp only [Bool.false_eq_true, if_false, List.cons.injEq, true_and]
    exact ih d fun x hx => h x (List.mem_cons_of_mem _ hx)

/-- A driven cell is read as the bit it carries. -/
theorem readCell_driveCell {cellTime : Nat} (h : 4 ≤ cellTime) (b final : Bool) :
    readCell cellTime (driveCell cellTime b final) final = some b := by
  have h1 : 12 * (10 * cellTime) ≤ 25 * (10 * cellTime) ∧ 25 * (10 * cellTime) ≤ 38 * (10 * cellTime) := by omega
  have h2 : 50 * (10 * cellTime) ≤ 125 * (10 * cellTime) / 2 ∧ 125 * (10 * cellTime) / 2 ≤ 80 * (10 * cellTime) := by omega
  have h3 : ¬ (12 * (10 * cellTime) ≤ 125 * (10 * cellTime) / 2 ∧ 125 * (10 * cellTime) / 2 ≤ 38 * (10 * cellTime)) := by
    omega
  have h4 : 85 * (10 * cellTime) ≤ 100 * (10 * cellTime) ∧ 100 * (10 * cellTime) ≤ 125 * (10 * cellTime) := by omega
  have he : (if final then edgeNotEarly cellTime (driveCell cellTime b final)
      else edgeInTime cellTime (driveCell cellTime b final)) = true := by
    cases final <;> simp [driveCell, edgeInTime, edgeNotEarly, hundredth, h4.1, h4.2]
  unfold readCell
  rw [he]
  cases b
  · simp only [driveCell, hundredth, Bool.false_eq_true, if_false, Bool.true_eq_false, if_neg h3, if_pos h2]
  · simp only [driveCell, hundredth, if_true, Bool.true_eq_false, if_false, if_pos h1]

/-! ### The expander -/

/-- One move of the expander from a context. -/
theorem advance_succ (e : CopyEnv) (last : Context) (n : Nat) (c : Context) (hand : List (Nat × Segment)) :
    advance e last (n + 1) c hand =
      if c.tack.isSome then .ready c hand
      else
        match c.phase with
        | .done => .ended c
        | .leadIn => if c.step < c.steps then .ready c hand else advance e last n (c.startRepeat e) hand
        | .endTack =>
          if c.seam = true ∧ 0 < c.tackCount then .ready (c.startTack e .ending c.tackCount c.tackLength) []
          else advance e last n (c.startRunOut e) []
        | .runOut => if c.step < c.steps then .ready c [] else advance e last n { c with phase := .done } []
        | .body =>
          match hand with
          | [] => .need c.position
          | (i, g) :: rest =>
            if i ≠ c.position then .stuck
            else if c.step < c.steps then
              if e.cuts c g then advance e last n (c.cutBody last) [] else .ready c hand
            else
              match startOfSegment e c i g with
              | .record c' => .ready c' hand
              | .onward c' => advance e last n c' rest
              | .cut => advance e last n (({ c with seam := c.seam && decide (g.op ≠ some .jump) } : Context).cutBody last) []
              | .unread => .stuck := rfl

/-- A repeat that fits begins. -/
theorem startRepeat_fits {e : CopyEnv} {c : Context} (h : RepeatFits e c) : c.startRepeat e = repeatBegun e c := by
  unfold Context.startRepeat repeatBegun
  rw [if_pos]
  simpa [RepeatFits, CopyEnv.margin, tackFeed] using h

/-- Where no repeat fits, the body ends. -/
theorem startRepeat_not {e : CopyEnv} {c : Context} (h : ¬ RepeatFits e c) : c.startRepeat e = { c with phase := .endTack } := by
  unfold Context.startRepeat
  rw [if_neg]
  simpa [RepeatFits, CopyEnv.margin, tackFeed] using h

/-- No segment comes into hand on the way. -/
theorem Passes.length_le {e c hand d rest} (h : Passes e c hand d rest) : rest.length ≤ hand.length := by
  induction h with
  | stands => exact Nat.le_refl _
  | firstRepeat _ _ _ ih => exact ih
  | nextRepeat _ _ _ _ ih => simp; omega
  | groups _ _ _ ih => simp; omega
  | noMove _ _ _ _ _ _ ih => simp; omega

/-- The moves of the expander follow a way without a record, one move for each segment passed and one for the first repeat. -/
theorem advance_passes {e c hand d rest} (h : Passes e c hand d rest) :
    ∃ j, j ≤ hand.length - rest.length + (if c.phase = .leadIn then 1 else 0) ∧
      ∀ last n, advance e last (n + j) c hand = advance e last n d rest := by
  induction h with
  | stands => exact ⟨0, by simp, fun _ _ => rfl⟩
  | @firstRepeat c d hand rest hl hf hp ih =>
    obtain ⟨j, hj, hn⟩ := ih
    refine ⟨j + 1, ?_, fun last n => ?_⟩
    · simp [repeatBegun] at hj; simp [hl.1]; omega
    · rw [← Nat.add_assoc, advance_succ, hl.1, hl.2.1]
      have := hl.2.2
      simp only [Option.isSome_none, Bool.false_eq_true, if_false]
      rw [if_neg (by omega), startRepeat_fits hf, hn]
  | @nextRepeat c d g hand rest hb hg hf hp ih =>
    obtain ⟨j, hj, hn⟩ := ih
    refine ⟨j + 1, ?_, fun last n => ?_⟩
    · have := Passes.length_le hp; simp [repeatBegun] at hj; simp [hb.1]; omega
    · rw [← Nat.add_assoc, advance_succ, hb.1, hb.2.1]
      have := hb.2.2
      simp only [Option.isSome_none, Bool.false_eq_true, if_false, ne_eq, not_true]
      rw [if_neg (by omega)]
      simp only [startOfSegment, hg]
      rw [startRepeat_fits hf, hn]
  | @groups c d g hand rest hb hg hp ih =>
    obtain ⟨j, hj, hn⟩ := ih
    refine ⟨j + 1, ?_, fun last n => ?_⟩
    · have := Passes.length_le hp; simp [hb.1] at hj; simp [hb.1]; omega
    · rw [← Nat.add_assoc, advance_succ, hb.1, hb.2.1]
      have := hb.2.2
      simp only [Option.isSome_none, Bool.false_eq_true, if_false, ne_eq, not_true]
      rw [if_neg (by omega)]
      simp only [startOfSegment, hg]
      have e1 : c.phase = .body := hb.1
      have e2 : c.tack = none := hb.2.1
      rw [← hn]
  | @noMove c d g hand rest hb hg ha hb' hs hp ih =>
    obtain ⟨j, hj, hn⟩ := ih
    refine ⟨j + 1, ?_, fun last n => ?_⟩
    · have := Passes.length_le hp; simp [hb.1] at hj; simp [hb.1]; omega
    · rw [← Nat.add_assoc, advance_succ, hb.1, hb.2.1]
      have := hb.2.2
      simp only [Option.isSome_none, Bool.false_eq_true, if_false, ne_eq, not_true]
      rw [if_neg (by omega)]
      have hs' : ¬ (c.seam = true ∧ 0 < c.tackCount) := by rcases hs with h | h <;> simp [h]
      simp only [startOfSegment, hg, ha, hb', jumpSteps, if_neg hs']
      simp
      rw [← hn]

/-- From the end of such a way the expander has moves enough left. -/
theorem advanceFrom_passes {e c hand d rest} (h : Passes e c hand d rest) :
    ∃ n, 11 + 2 * rest.length ≤ n ∧ advanceFrom e c hand = advance e c n d rest := by
  obtain ⟨j, hj, hn⟩ := advance_passes h
  have hl := Passes.length_le h
  have hle : j ≤ hand.length - rest.length + 1 := by split at hj <;> omega
  refine ⟨2 * hand.length + 12 - j, by omega, ?_⟩
  rw [← hn]; unfold advanceFrom; congr 1; omega

/-- Nothing divided is nothing. -/
theorem rdiv_zero (n : Nat) : rdiv 0 n = 0 := by
  unfold rdiv
  simp only [Int.natAbs_zero, Nat.mul_zero, Nat.zero_add, le_refl, if_true]
  rcases Nat.eq_zero_or_pos n with h | h
  · simp [h]
  · rw [Nat.div_eq_of_lt (by omega)]; rfl

/-- A ready context gives its record, which is not the last one when more of the copy is to come. -/
theorem plan_of_ready {e : CopyEnv} {c c' : Context} {hand hand' : List (Nat × Segment)}
    (h : advanceFrom e c hand = .ready c' hand') (hd : (makeRecord e c' hand').context.phase ≠ .done)
    (hm : (makeRecord e c' hand').context.phase = .runOut ∨ e.moreToCome (makeRecord e c' hand').context = true) :
    e.plan c hand = .make (makeRecord e c' hand') (decide (c.phase = .leadIn) && decide (c.step = 0)) false
      (decide (c'.phase = .runOut) && decide (c'.step = 0)) := by
  have hl : e.lastness (makeRecord e c' hand') = .notLast := by
    unfold CopyEnv.lastness
    rw [if_neg hd, if_pos hm]
  unfold CopyEnv.plan
  rw [h]
  dsimp only
  rw [hl]

/-! ### The window -/

/-- Waiting records join at the tail as far as there are places: the ring is longer by them, and the records, serials apart, are
those that stood or waited before. -/
theorem joinWaiting_spec (n : Nat) (w : Window) (h : 16 ≤ w.ring.length + n) (hw : w.ring.length ≤ 16) :
    (∃ more, (w.joinWaiting n).ring = w.ring ++ more) ∧
      (w.joinWaiting n).ring.length = min 16 (w.ring.length + w.waiting.length) ∧
      ((w.joinWaiting n).ring ++ (w.joinWaiting n).waiting).map (fun r => { r with serial := 0 }) =
        (w.ring ++ w.waiting).map fun r => { r with serial := 0 } := by
  induction n generalizing w with
  | zero => exact ⟨⟨[], by simp [Window.joinWaiting]⟩, by simp only [Window.joinWaiting]; omega, rfl⟩
  | succ n ih =>
    unfold Window.joinWaiting
    cases hq : w.waiting with
    | nil => exact ⟨⟨[], by simp⟩, by simp only [List.length_nil]; omega, by rw [hq]⟩
    | cons r rest =>
      by_cases hl : w.ring.length < 16
      · simp only [Config.windowSize, hl, if_true]
        obtain ⟨⟨more, h1⟩, h2, h3⟩ := ih (({ w with waiting := rest } : Window).join r)
          (by simp only [Window.join, List.length_append, List.length_singleton]; omega)
          (by simp only [Window.join, List.length_append, List.length_singleton]; omega)
        refine ⟨⟨{ r with serial := w.counter } :: more, by rw [h1]; simp [Window.join]⟩, ?_, ?_⟩
        · rw [h2]; simp only [Window.join, List.length_append, List.length_cons, List.length_nil]; omega
        · rw [h3]; simp [Window.join]
      · simp only [Config.windowSize, hl, if_false]
        refine ⟨⟨[], by simp⟩, ?_, by rw [hq]⟩
        simp only [List.length_cons]; omega

/-! ### Late splices -/

/-- Of a tag and copy, markCut marks the newest entry alone. -/
theorem markCut_newest {tag : Word16} {copy : Nat} (before : List CutEntry) {e : CutEntry} {behind : List CutEntry}
    (he : e.isOf tag copy = true) (h : (behind.any fun x => x.isOf tag copy) = false) :
    markCut tag copy (before ++ e :: behind) = before ++ { e with spliceLate := true } :: behind := by
  induction before with
  | nil =>
    rw [List.nil_append, markCut, h, he]
    simp only [Bool.false_eq_true, if_false, if_true, List.nil_append]
  | cons b bs ih =>
    have hb : ((bs ++ e :: behind).any fun x => x.isOf tag copy) = true := by simp [he]
    rw [List.cons_append, markCut, hb, if_pos rfl, ih, List.cons_append]

/-- The splice-late mark changes the cut list and the queue alone. -/
theorem markLate_keeps (s : State) : (markLate s).rc = s.rc ∧ (markLate s).sw = s.sw ∧ (markLate s).gh = s.gh ∧
    (markLate s).lp = s.lp ∧ (markLate s).wt.zones = s.wt.zones := by
  unfold markLate
  (repeat' split) <;> simp

/-! ### Operations -/

theorem portNext_op_none {s : State} (h : s.pl.op = none) : (portNext s).pl.op = none := by
  have hp := portNext_op s
  rw [h] at hp
  simpa using hp

theorem settle_op_none {s : State} (h : s.pl.op = none) : (settle s).pl.op = none := by
  have hp := settle_op s
  rw [h] at hp
  simpa using hp

end Sys2Proof.Machine
end

