-- ==== Sys2Proof/Laws/PerInstr.lean ====
section
/-! SUPPORT. A fact about every command as syntax: a request's frame has at most 28 octets (R155). -/

namespace Sys2Proof.Laws.RequestFrames

/-- The frame of a well-formed request is no longer than a frame may be. -/
def Statement (i : Instr) : Prop :=
  WellFormed i = true → ∀ r, encodeRequest i = some r → 3 + r.params.length ≤ Config.frameOctets

/-- A command that is no request has no frame. -/
theorem of_none {i : Instr} (h : encodeRequest i = none) : Statement i := fun _ _ hr => absurd (h ▸ hr) (by simp)

/-- The frame has as many parameter octets as its request has in every use. -/
theorem of_length {i : Instr} {r : RequestFrame} (h : encodeRequest i = some r) (hl : 3 + r.params.length ≤ 28) :
    Statement i := fun _ r' hr => by
  obtain rfl : r = r' := by rw [h] at hr; exact Option.some.inj hr
  exact hl

theorem powerOn : Statement .powerOn := of_none rfl
theorem resetnAssert (left : List Host.Cell) : Statement (.resetnAssert left) := of_none rfl
theorem resetnRelease : Statement .resetnRelease := of_none rfl
theorem needleUp (inactiveUs : Nat) : Statement (.needleUp inactiveUs) := of_none rfl
theorem holdSeenChange (asserted : Bool) (stableUs : Nat) : Statement (.holdSeenChange asserted stableUs) := of_none rfl
theorem stopSilenceExpiry : Statement .stopSilenceExpiry := of_none rfl
theorem resumeSettleEnd : Statement .resumeSettleEnd := of_none rfl
theorem expansionEvent : Statement .expansionEvent := of_none rfl
theorem programStepComplete (step : ArrayStep) (failed : List Host.Cell) : Statement (.programStepComplete step failed) :=
  of_none rfl
theorem eraseComplete (residue : List Host.Cell) : Statement (.eraseComplete residue) := of_none rfl
theorem boundExpiry (left : List Host.Cell) : Statement (.boundExpiry left) := of_none rfl
theorem progressIntervalEnd : Statement .progressIntervalEnd := of_none rfl
theorem readComplete : Statement .readComplete := of_none rfl
theorem inboundFrame (wave : Wave) : Statement (.inboundFrame wave) := of_none rfl
theorem lineIdle (recessiveNs : Nat) : Statement (.lineIdle recessiveNs) := of_none rfl
theorem frameHandOn : Statement .frameHandOn := of_none rfl
theorem frameStart : Statement .frameStart := of_none rfl
theorem frameDelivered (wave : Wave) : Statement (.frameDelivered wave) := of_none rfl
theorem arbitrationLost (wave : Wave) : Statement (.arbitrationLost wave) := of_none rfl
theorem errorAbort (wave : Wave) : Statement (.errorAbort wave) := of_none rfl
theorem loadBuffer (src : NodeId) (offset : Byte) (data : List Byte) :
    Statement (.loadBuffer src offset data) := fun h => of_length rfl (by
  simp only [WellFormed, octetsOk, Bool.and_eq_true, decide_eq_true_eq] at h
  simp only [List.length_cons]; omega) h
theorem clearBuffer (src : NodeId) : Statement (.clearBuffer src) := of_length rfl (Nat.le_of_ble_eq_true rfl)
theorem commitPage (src : NodeId) (slot page : Byte) : Statement (.commitPage src slot page) :=
  of_length rfl (Nat.le_of_ble_eq_true rfl)
theorem eraseSlot (src : NodeId) (slot : Byte) : Statement (.eraseSlot src slot) := of_length rfl (Nat.le_of_ble_eq_true rfl)
theorem closeSlot (src : NodeId) (slot : Byte) : Statement (.closeSlot src slot) := of_length rfl (Nat.le_of_ble_eq_true rfl)
theorem readLibrary (src : NodeId) (slot page offset count : Byte) : Statement (.readLibrary src slot page offset count) :=
  of_length rfl (Nat.le_of_ble_eq_true rfl)
theorem readOutcome (src : NodeId) : Statement (.readOutcome src) := of_length rfl (Nat.le_of_ble_eq_true rfl)
theorem enqueue (src : NodeId) (tag : Word16) (slot : Byte) (length gap : Word16) (mode stitch : Byte) (start : Word16)
    (groups : Word32) (tackCount tackLength copies : Byte) :
    Statement (.enqueue src tag slot length gap mode stitch start groups tackCount tackLength copies) :=
  of_length rfl (Nat.le_of_ble_eq_true rfl)
theorem cancel (src : NodeId) (tag : Word16) : Statement (.cancel src tag) := of_length rfl (Nat.le_of_ble_eq_true rfl)
theorem readQueue (src : NodeId) : Statement (.readQueue src) := of_length rfl (Nat.le_of_ble_eq_true rfl)
theorem readOrder (src : NodeId) (tag : Word16) (part : Byte) : Statement (.readOrder src tag part) :=
  of_length rfl (Nat.le_of_ble_eq_true rfl)
theorem takeHead (src : NodeId) (serial : Word32) : Statement (.takeHead src serial) :=
  of_length rfl (Nat.le_of_ble_eq_true rfl)
theorem takeFeed (src : NodeId) (serial : Word32) : Statement (.takeFeed src serial) :=
  of_length rfl (Nat.le_of_ble_eq_true rfl)
theorem reportMoved (src : NodeId) (serial : Word32) : Statement (.reportMoved src serial) :=
  of_length rfl (Nat.le_of_ble_eq_true rfl)
theorem start (src : NodeId) : Statement (.start src) := of_length rfl (Nat.le_of_ble_eq_true rfl)
theorem stop (src : NodeId) : Statement (.stop src) := of_length rfl (Nat.le_of_ble_eq_true rfl)
theorem endRun (src : NodeId) : Statement (.endRun src) := of_length rfl (Nat.le_of_ble_eq_true rfl)
theorem resume (src : NodeId) : Statement (.resume src) := of_length rfl (Nat.le_of_ble_eq_true rfl)
theorem abort (src : NodeId) : Statement (.abort src) := of_length rfl (Nat.le_of_ble_eq_true rfl)
theorem clearCauses (src : NodeId) (causes : Word16) : Statement (.clearCauses src causes) :=
  of_length rfl (Nat.le_of_ble_eq_true rfl)
theorem reportStopped (src : NodeId) : Statement (.reportStopped src) := of_length rfl (Nat.le_of_ble_eq_true rfl)
theorem readStatus (src : NodeId) (part : Byte) : Statement (.readStatus src part) := of_length rfl (Nat.le_of_ble_eq_true rfl)
theorem readCounters (src : NodeId) (first : Byte) : Statement (.readCounters src first) :=
  of_length rfl (Nat.le_of_ble_eq_true rfl)
theorem clearCounters (src : NodeId) : Statement (.clearCounters src) := of_length rfl (Nat.le_of_ble_eq_true rfl)
theorem reportBreak (src : NodeId) (groups : Word32) : Statement (.reportBreak src groups) :=
  of_length rfl (Nat.le_of_ble_eq_true rfl)
theorem reportMended (src : NodeId) (groups : Word32) : Statement (.reportMended src groups) :=
  of_length rfl (Nat.le_of_ble_eq_true rfl)
theorem park (src : NodeId) (groups : Word32) : Statement (.park src groups) := of_length rfl (Nat.le_of_ble_eq_true rfl)
theorem unpark (src : NodeId) (groups : Word32) : Statement (.unpark src groups) := of_length rfl (Nat.le_of_ble_eq_true rfl)
theorem backstitch (src : NodeId) (count : Byte) : Statement (.backstitch src count) :=
  of_length rfl (Nat.le_of_ble_eq_true rfl)
theorem readHistory (src : NodeId) (age : Byte) : Statement (.readHistory src age) := of_length rfl (Nat.le_of_ble_eq_true rfl)
theorem cutQuery (src : NodeId) : Statement (.cutQuery src) := of_length rfl (Nat.le_of_ble_eq_true rfl)
theorem cutDone (src : NodeId) (tag : Word16) (copy : Byte) : Statement (.cutDone src tag copy) :=
  of_length rfl (Nat.le_of_ble_eq_true rfl)
theorem reportSplice (src : NodeId) (web : Word32) : Statement (.reportSplice src web) :=
  of_length rfl (Nat.le_of_ble_eq_true rfl)
theorem setSetting (src : NodeId) (code : Byte) (value : List Byte) :
    Statement (.setSetting src code value) := fun h => of_length rfl (by
  simp only [WellFormed, octetsOk, Bool.and_eq_true, decide_eq_true_eq] at h
  simp only [List.length_cons]; omega) h
theorem setRole (src : NodeId) (node role : Byte) : Statement (.setRole src node role) :=
  of_length rfl (Nat.le_of_ble_eq_true rfl)
theorem writeSetup (src : NodeId) : Statement (.writeSetup src) := of_length rfl (Nat.le_of_ble_eq_true rfl)
theorem reloadSetup (src : NodeId) : Statement (.reloadSetup src) := of_length rfl (Nat.le_of_ble_eq_true rfl)
theorem resetPart (src : NodeId) : Statement (.resetPart src) := of_length rfl (Nat.le_of_ble_eq_true rfl)
theorem resetPartApply : Statement .resetPartApply := of_none rfl
theorem readSetting (src : NodeId) (code : Byte) : Statement (.readSetting src code) :=
  of_length rfl (Nat.le_of_ble_eq_true rfl)
theorem readTable (src : NodeId) : Statement (.readTable src) := of_length rfl (Nat.le_of_ble_eq_true rfl)
theorem frameNotForPart (wave : Wave) : Statement (.frameNotForPart wave) := of_none rfl
theorem notAStartMark (mark : LineCell) : Statement (.notAStartMark mark) := of_none rfl
theorem powerOff (left : List Host.Cell) : Statement (.powerOff left) := of_none rfl

end Sys2Proof.Laws.RequestFrames
end

