-- ==== Sys2Proof/Tests/Slice0.lean ====
section
/-! SUPPORT. Tests: ill-formed commands, request frames written out, one step of each kind of command on a small state, and
for each statement with hypotheses a state that meets them. -/

namespace Sys2Proof.Tests
open Sys2Proof Sys2Proof.Machine

-- Evaluations in the kernel one after another: side by side each would hold a thread of its own.
set_option Elab.async false

/-! ### Ill-formed commands, one for each check -/

theorem test_source_31_is_refused : WellFormed (.stop 31) = false := by decide
theorem test_source_30_is_taken : WellFormed (.stop 30) = true := by decide
theorem test_long_data_is_refused : WellFormed (.loadBuffer 0 0 (List.replicate 25 0)) = false := by decide
theorem test_long_value_is_refused : WellFormed (.setSetting 0 1 (List.replicate 25 0)) = false := by decide
theorem test_address_outside_array_is_refused : WellFormed (.powerOff [(131328, 0)]) = false := by decide
theorem test_last_address_is_taken : WellFormed (.powerOff [(131327, 0)]) = true := by decide
theorem test_falling_addresses_are_refused : WellFormed (.eraseComplete [(5, 0), (4, 0)]) = false := by decide
theorem test_cell_without_dominant_is_refused : WellFormed (.notAStartMark ⟨0, none⟩) = false := by decide
theorem test_edge_inside_dominant_is_refused : WellFormed (.notAStartMark ⟨100, some 100⟩) = false := by decide
theorem test_wave_with_bad_cell_is_refused : WellFormed (.inboundFrame ⟨⟨1, none⟩, [⟨0, none⟩]⟩) = false := by decide
theorem test_wave_too_long_is_refused :
    WellFormed (.frameDelivered ⟨⟨1, none⟩, List.replicate 309 ⟨1, none⟩⟩) = false := by decide +kernel

/-! ### Request frames written out from the request table of chapter 11 -/

theorem test_decode_cancel : decodeRequest ⟨0, 0x11, [0x00, 0x29]⟩ = some (.cancel 0 41) := by decide
theorem test_decode_take_head : decodeRequest ⟨4, 0x20, [0, 0, 1, 2]⟩ = some (.takeHead 4 0x102) := by decide
theorem test_decode_enqueue :
    decodeRequest ⟨0, 0x10, [0, 41, 2, 0x01, 0x2C, 0, 40, 0, 35, 0x02, 0x58, 0, 0, 0xFF, 0xFF, 2, 8, 3]⟩ =
      some (.enqueue 0 41 2 300 40 0 35 600 0xFFFF 2 8 3) := by decide
theorem test_decode_clear_causes : decodeRequest ⟨0, 0x35, [0x01, 0x00]⟩ = some (.clearCauses 0 0x0100) := by decide
theorem test_decode_wrong_number : decodeRequest ⟨0, 0x31, [0]⟩ = none := by decide
theorem test_decode_no_request : decodeRequest ⟨0, 0x08, []⟩ = none := by decide
theorem test_no_table_word : decodeTableWord 8 0x31 = none := by decide

/-! ### Small states -/

def settings : Settings :=
  { Settings.defaults with roles := [⟨0, .supervisor⟩, ⟨2, .head⟩, ⟨3, .feed⟩, ⟨4, .thread⟩, ⟨5, .cutter⟩] }

/-- A zigzag as slot 2 may hold it: two RUNs and END. -/
def zigzag : SlotInfo := ⟨3, 35, 120, 120, 0, 60, false⟩

/-- READY, in STANDBY, slot 2 CLOSED. -/
def calm : State where
  pins := ⟨true, false⟩
  lp := .afterReset .busy settings
  pl := .afterReset [] ((List.replicate 32 SlotEntry.empty).set 2 (.closed zigzag))
  queue := []
  sx := .afterReset 600
  sw := .afterReset 2
  rc := .afterReset
  gh := .afterReset
  wt := .afterReset 600
  st := ⟨settings, false, .ready⟩
  pending := []

/-- The same in another run state, HOLD and the timer as that state has them. -/
def inState (r : RunState) : State :=
  let still : Bool := r == .halting || r == .halted
  calm.setRc { calm.rc with
    state := r
    holdDriven := still
    holdSeen := still
    silence := if r = .halting then some 300 else none }

def sv (role : Role) (c : Instr) : Service := ⟨c, 0, role, .handed⟩

/-- A request in its owner's hands. -/
def served (role : Role) (c : Instr) (s : State) : State := s.setLp { s.lp with service := some (sv role c) }

theorem serves {s : State} (h : s.ready = true) (role : Role) (c : Instr) : Serving (served role c s) (sv role c) c :=
  ⟨h, rfl, rfl, rfl⟩

theorem inState_ready (r : RunState) : (inState r).ready = true := rfl

theorem inState_state (r : RunState) : (inState r).rc.state = r := rfl

/-- The state a command leaves. -/
def result (o : Host.Outcome State Fault Refusal) : State :=
  match o with
  | .next t => t
  | .fault _ | .refused _ => .reset

/-- What a request leaves, and the last answer's code and parameter octets. -/
def asked (role : Role) (c : Instr) (s : State) : State := result (exec c (served role c s))

def said (s : State) : Option (Byte × List Byte) := s.lp.general.getLast?.map fun f => (f.code, f.params)

def answered (role : Role) (c : Instr) (s : State) : Option (Byte × List Byte) := said (asked role c s)

def order : Order :=
  ⟨41, 2, 300, 40, .whole, some 35, 600, 0xFFFF, some 2, some 8, 2, 0, 2, false, 0, 0, 0, false, []⟩

def stitch (serial : Word32) (taken : Bool) : Record where
  serial := serial
  kind := .sew
  dx := 20
  dy := 30
  lateral := 620
  web := 1030
  planned := 0xFFFF
  effective := if taken then some 0xFFFF else none
  tag := 41
  copy := 1
  flags := .clear
  takenHead := taken
  takenFeed := taken
  movedHead := false
  movedFeed := false
  context := none

/-- One order queued and two records in the window, the first taken or not. -/
def sewing (r : RunState) (taken : Bool) : State :=
  ((inState r).setQueue [order]).setSw
    { ring := [stitch 1 taken, stitch 2 false], waiting := [], counter := 3,
      headNext := if taken then 2 else 1, feedNext := if taken then 2 else 1, leadLimit := 2 }

/-- An operation in hand at a step. -/
def working (work : OpWork) (step : ArrayStep) (interval : Bool) : State :=
  calm.setPl { calm.pl with op := some ⟨work, .stepping step, interval, false⟩ }

/-! ### One step of a command -/

/-- Start-up: the setup page of an array as shipped gives the defaults, and the first slot is read next. -/
theorem test_setup_load_defaults :
    let t := result (exec .readComplete State.reset)
    (t.st.working, t.st.defaults, t.pl.port.inFlight) = (Settings.defaults, true, some (.scan (.page 0 0))) := by
  decide +kernel

theorem test_power_on_held : (result (exec .powerOn (calm.setPins ⟨false, true⟩))).pl.port = .quiet := by decide +kernel

theorem test_resetn_assert_leaves_mark :
    (result (exec (.resetnAssert [(31, 0)]) (working (.commit 0 0 [(40, 7)]) .openedMark false))).pl.array =
      [(31, 0x7E)] := by decide +kernel

/-- RESETN in the mark write that opens an ERASE SLOT of a CLOSED slot leaves the mark VOID (R17, R37). -/
theorem test_resetn_in_void_mark :
    (result (exec (.resetnAssert []) ((working (.erase 2) .voidMarkFirst false).setPl
      { (working (.erase 2) .voidMarkFirst false).pl with array := [(markAddress 2, 0x3C)] }))).pl.array =
      [(markAddress 2, 0x00)] := by decide +kernel

/-- Page data cut short: the last byte listed is in hand, and every one before it whole, listed or not (R24). -/
theorem test_resetn_in_page_data :
    (result (exec (.resetnAssert [(pageBase 2 0 + 32, 0xFF), (pageBase 2 0 + 33, 0xF0)])
      (working (.commit 2 0 [(32, 1), (33, 2), (34, 3)]) .pageData false))).pl.array =
      [(pageBase 2 0 + 32, 1), (pageBase 2 0 + 33, 0xF2)] := by decide +kernel

theorem test_resetn_release : (result (exec .resetnRelease (calm.setPins ⟨true, true⟩))).st.startUp = .scanning [] := by
  decide +kernel

theorem test_power_off_leaves_array :
    (result (exec (.powerOff []) (calm.setPl { calm.pl with array := [(7, 1)] }))).pl.array = [(7, 1)] := by decide +kernel

theorem test_needle_up_retires :
    let t := result (exec (.needleUp 2000) (sewing .run true))
    (t.wt.web, t.wt.lateral, t.gh.history.length, t.gh.rewindable, t.sw.ring.map Record.serial, t.rc.counters.stitches) =
      (30, 620, 1, 1, [2], 1) := by decide +kernel

theorem test_needle_up_late_take :
    let t := result (exec (.needleUp 2000) (sewing .run false))
    (t.rc.state, t.rc.causes, t.rc.counters.lateTakes, t.lp.statePlace.map OutFrame.params) =
      (.halting, 0x0002, 1, some [3, 0, 2, 0, 0, 0, 0, 1, 3, 1]) := by decide +kernel

theorem test_hold_external :
    let t := result (exec (.holdSeenChange true 10) (sewing .run true))
    (t.rc.state, t.rc.causes, t.rc.holdDriven) = (.halting, 0x0040, true) := by decide +kernel

theorem test_hold_short_pulse : result (exec (.holdSeenChange true 9) calm) = calm := by decide +kernel

theorem test_silence : (result (exec .stopSilenceExpiry (inState .halting))).lp.statePlace.map OutFrame.params =
    some [4, 0, 0, 0, 0, 0, 0, 1, 5, 0xFF] := by decide +kernel

def settling : State :=
  let s := inState .halted
  (s.setRc { s.rc with holdDriven := false, holdSeen := false }).setLp
    { s.lp with service := some ⟨.resume 0, 0, .supervisor, .settle⟩ }

theorem test_settle_held :
    let t := result (exec .resumeSettleEnd (settling.setRc { settling.rc with holdSeen := true }))
    (t.rc.state, t.rc.causes, t.rc.holdDriven, said t) = (.halted, 0x0040, true, some (0x24, [])) := by decide +kernel

/-- The head order taken up, the zigzag's first segment in hand, the lead-in of no length. -/
def expanding : State :=
  let s := takeUp order 1 ((inState .priming).setQueue [order])
  s.setSx { s.sx with hand := [(0, ⟨some .run, 60, 60, 0, 0⟩)] }

/-- The double-back of the start tack comes first: T of 8 forward, then back (R64). -/
theorem test_expansion_event :
    let t := result (exec .expansionEvent expanding)
    (t.sw.ring.map Record.serial, t.sw.ring.map Record.kind, t.sw.ring.map Record.dy, t.sw.ring.map Record.lateral,
        t.sw.ring.map Record.web) = ([1], [.tack], [8], [600], [8]) := by decide +kernel

theorem test_program_page :
    let t := result (exec (.programStepComplete .pageData []) (working (.commit 2 0 [(32, 1), (33, 0xFF)]) .pageData false))
    (t.pl.array, t.pl.op.isNone, t.pl.outcome) =
      ([(8224, 1)], true, some ⟨.commitPage, some 2, some 0, .done⟩) := by decide +kernel

/-- A loaded 0xFF over a blank byte programs nothing, so it passes (R24). -/
theorem test_program_blank :
    let t := result (exec (.programStepComplete .pageData [(8225, 0)]) (working (.commit 2 0 [(32, 1), (33, 0xFF)]) .pageData false))
    (t.pl.array, t.pl.outcome) = ([(8224, 1)], some ⟨.commitPage, some 2, some 0, .done⟩) := by decide +kernel

theorem test_stale_report :
    result (exec (.programStepComplete .openedMark []) (working (.commit 2 0 []) .pageData false)) =
      working (.commit 2 0 []) .pageData false := by decide +kernel

theorem test_erase :
    let t := result (exec (.eraseComplete []) (working (.erase 2) .slotErase false))
    (t.pl.table[2]?, t.pl.failFlag) = (some .empty, false) := by decide +kernel

theorem test_erase_residue :
    let t := result (exec (.eraseComplete [(8192, 0)]) (working (.erase 2) .slotErase false))
    (t.pl.table[2]?, t.pl.failFlag, t.pl.array) = (some .failed, true, [(8192, 0)]) := by decide +kernel

theorem test_bound_expiry :
    let t := result (exec (.boundExpiry []) (working (.erase 2) .slotErase false))
    (t.pl.table[2]?, t.pl.failFlag, t.pl.op) = (some .failed, true, none) := by decide +kernel

/-- The setup page is not usable after the expiry of the bound in step 4, nor where an erase fails after the signature was zeroed
(R172); where the signature could not be zeroed either, its bytes may be left. -/
theorem test_failed_setup_page_not_usable :
    let t := result (exec (.boundExpiry [(setupBase, 0), (setupBase + 1, 0)]) (working (.setup settings false) .signatureWrite false))
    let left (zeroFailed : Bool) := (result (exec (.eraseComplete [(setupBase, 0xC3), (setupBase + 1, 0x5A)])
      (working (.setup settings zeroFailed) .setupErase false))).pl.array
    t.pl.array = [(setupBase, 0xC3)] ∧ left false = [(setupBase, 0xC3)] ∧
      left true = [(setupBase, 0xC3), (setupBase + 1, 0x5A)] := by decide +kernel

def waiting (interval : Bool) : State :=
  let s := working (.erase 5) .slotErase interval
  s.setPort { s.pl.port with expander := some (.expander 2 0 true) }

theorem test_progress_interval_end :
    let t := result (exec .progressIntervalEnd (waiting true))
    (t.pl.state, t.rc.counters.suspensions, t.pl.port.inFlight) = (.suspended, 1, some (.expander 2 0 true)) := by
  decide +kernel

theorem test_read_complete_resumes_step :
    let t := result (exec .readComplete (result (exec .progressIntervalEnd (waiting true))))
    (t.pl.state, t.pl.op.map Op.interval) = (.erasing, some true) := by decide +kernel

/-- STOP from node 0 to node 1, as driven on an idle line at a cell time of 10 µs. -/
def stopOctets : List (Byte × Bool) := [(0x60, false), (0x09, false), (0x31, false)]

def idle : State := calm.setLp { calm.lp with engine := .idle }

theorem test_inbound_stop :
    let t := result (exec (.inboundFrame (driveFrame 10 stopOctets)) idle)
    (t.lp.inbound, t.lp.lineOut, t.lp.engine, t.lp.counters.bitErrors) =
      ([⟨0, 0x31, []⟩], ⟨[false, true, true], false⟩, .busy, 0) := by decide +kernel

/-- The fourth cell stays dominant for 0.44 T, which no reading takes. -/
theorem test_inbound_cell_error :
    let w := driveFrame 10 stopOctets
    let t := result (exec (.inboundFrame ⟨w.mark, w.cells.set 3 ⟨4400, some 10000⟩⟩) idle)
    (t.lp.inbound, t.lp.lineOut.pulsed, t.lp.counters.bitErrors) = ([], true, 1) := by decide +kernel

/-- With the filter on a level of 1 µs inside a cell is not there: the third cell's recessive level is broken by it, and the
frame is received. -/
theorem test_inbound_glitch_is_filtered :
    let w := driveFrame 10 stopOctets
    let cells := w.cells.take 2 ++ [⟨2500, some 6000⟩, ⟨1000, some 4000⟩] ++ w.cells.drop 3
    let t := result (exec (.inboundFrame ⟨w.mark, cells⟩) idle)
    let u := result (exec (.inboundFrame ⟨w.mark, cells⟩) (idle.setLp { idle.lp with filter := false }))
    (t.lp.inbound, t.lp.counters.bitErrors, u.lp.inbound, u.lp.counters.bitErrors) = ([⟨0, 0x31, []⟩], 0, [], 1) := by
  decide +kernel

/-- The ninth cell of octet 1 fails its parity and the tenth is an error: two bit errors (R159). -/
theorem test_inbound_parity_then_error :
    let w := driveFrame 10 stopOctets
    let cells := (w.cells.set 8 ⟨6250, some 10000⟩).set 9 ⟨4400, some 10000⟩
    let t := result (exec (.inboundFrame ⟨w.mark, cells⟩) idle)
    (t.lp.inbound, t.lp.counters.bitErrors) = ([], 2) := by decide +kernel

/-- An edge before 0.85 T in the last response cell is a cell error too (R153). -/
theorem test_inbound_final_cell_early_edge :
    let w := driveFrame 10 stopOctets
    let t := result (exec (.inboundFrame ⟨w.mark, w.cells.set 32 ⟨2500, some 8400⟩⟩) idle)
    let u := result (exec (.inboundFrame ⟨w.mark, w.cells.set 32 ⟨2500, some 8500⟩⟩) idle)
    (t.lp.inbound, t.lp.lineOut.pulsed, t.lp.counters.bitErrors, u.lp.inbound) = ([], true, 1, [⟨0, 0x31, []⟩]) := by
  decide +kernel

theorem test_frame_for_node_2 :
    let t := result (exec (.frameNotForPart (driveFrame 10 [(0x60, false), (0x11, false), (0x31, false)])) idle)
    (t.lp.inbound, t.lp.lineOut.acknowledged, t.lp.counters.refusals) = ([], [false, false, false], 0) := by decide +kernel

theorem test_not_a_start_mark :
    let t := result (exec (.notAStartMark ⟨20000, none⟩) idle)
    (t.lp.engine, t.lp.counters.bitErrors) = (.busy, 1) := by decide +kernel

theorem test_line_idle : (result (exec (.lineIdle 60000) calm)).lp.engine = .idle := by decide +kernel

def queued : State := calm.setLp { calm.lp with inbound := [⟨0, 0x31, []⟩] }

theorem test_hand_on : (result (exec .frameHandOn queued)).lp.service = some (sv .supervisor (.stop 0)) := by decide +kernel

theorem test_hand_on_refused_role :
    said (result (exec .frameHandOn (calm.setLp { calm.lp with inbound := [⟨4, 0x31, []⟩] }))) = some (0x12, [4]) := by
  decide +kernel

/-- A STOP given without a frame waiting passes the role check in the same step (log 4). -/
theorem test_request_alone : said (result (exec (.stop 0) calm)) = some (0x11, []) := by decide +kernel

/-- The answer's frame: priority 3, source 1, destination 0, kind 10, its code. -/
def sending : State :=
  (result (exec .frameStart (idle.setLp { idle.lp with general := [⟨0, .answer, 0x11, [], 3, 0, .none⟩] })))

theorem test_frame_start :
    sending.lp.sending = some ⟨.general 0, [0x61, 0x02, 0x11], false, false⟩ := by decide +kernel

def heard (acknowledged : Bool) : Wave := driveFrame 10 [(0x61, false), (0x02, acknowledged), (0x11, acknowledged)]

theorem test_frame_delivered :
    let t := result (exec (.frameDelivered (heard true)) sending)
    (t.lp.general, t.lp.ownWait, t.lp.counters.undelivered) = ([], true, 0) := by decide +kernel

/-- Node 0 sends priority 0 at the same time: its first cell is a 0 where the part sends a 0, its second a 0 where the part
sends a 1. -/
theorem test_arbitration_lost :
    let t := result (exec (.arbitrationLost (driveFrame 10 [(0x00, false), (0xF8, false), (0x80, false)])) sending)
    (t.lp.counters.losses, t.lp.general.length, t.lp.sending) = (1, 1, none) := by decide +kernel

/-- A request to the part wins arbitration over its answer. -/
def rival : Wave := driveFrame 10 [(0x00, false), (0x09, false), (0x31, false)]

/-- The loser receives the rival's frame, and refuses it whole where its start mark is stretched beyond 3.3 T (R154, R157). -/
theorem test_loser_judges_start_mark :
    let t := result (exec (.arbitrationLost rival) sending)
    let u := result (exec (.arbitrationLost { rival with mark := ⟨33001, some 40000⟩ }) sending)
    (t.lp.inbound, t.lp.lineOut.acknowledged, t.lp.counters.bitErrors) = ([⟨0, 0x31, []⟩], [false, true, true], 0) ∧
      (u.lp.inbound, u.lp.lineOut.acknowledged, u.lp.counters.bitErrors, u.lp.counters.losses, u.lp.ownWait) =
        ([], [], 1, 1, false) := by decide +kernel

theorem test_error_abort :
    let t := result (exec (.errorAbort (heard false)) sending)
    (t.lp.general.map OutFrame.aborts, t.lp.counters.undelivered) = ([1], 0) := by decide +kernel

/-- The response cell of octet 2 let go at 0.4 T is a cell error before the part samples it (R158). -/
theorem test_response_cell_error :
    let w := heard true
    let t := result (exec (.errorAbort ⟨w.mark, w.cells.set 21 ⟨4000, some 10000⟩⟩) sending)
    (t.lp.counters.bitErrors, t.lp.lineOut.pulsed) = (1, true) := by decide +kernel

/-- The last response cell has an edge before the sample: an error seen, not an answer (R153, R158). -/
theorem test_last_response_cell_error :
    let w := heard true
    let t := result (exec (.errorAbort ⟨w.mark, w.cells.set 32 ⟨2000, some 4000⟩⟩) sending)
    (t.lp.lineOut.pulsed, t.lp.counters.bitErrors, t.lp.general.map OutFrame.aborts) = (true, 1, [1]) := by decide +kernel

theorem test_load_buffer_wraps :
    let t := asked .supervisor (.loadBuffer 0 250 [1, 2, 3, 4, 5, 6, 7, 8, 9, 10]) calm
    (said t, t.pl.pageBuffer.map Prod.fst) = (some (0, [0, 10]), [0, 1, 2, 3, 250, 251, 252, 253, 254, 255]) := by
  decide +kernel

theorem test_clear_buffer :
    answered .supervisor (.clearBuffer 0) (calm.setPl { calm.pl with pageBuffer := [(3, 0xFF)] }) = some (0, [0, 1]) := by
  decide +kernel

theorem test_commit_reserved_area :
    answered .supervisor (.commitPage 0 0 0) (calm.setPl { calm.pl with pageBuffer := [(31, 0)] }) = some (0x17, []) := by
  decide +kernel

theorem test_erase_in_use :
    answered .supervisor (.eraseSlot 0 2) (calm.setQueue [order]) = some (0x16, []) := by decide +kernel

theorem test_close_slot_not_open : answered .supervisor (.closeSlot 0 2) calm = some (0x11, []) := by decide +kernel

theorem test_read_library_waits :
    (asked .observer (.readLibrary 0 2 15 254 4) calm).pl.port.inFlight = some (.library 2 15 254 4) := by decide +kernel

theorem test_read_outcome_empty : answered .observer (.readOutcome 0) calm = some (0, [0, 0]) := by decide +kernel

theorem test_enqueue_clamped :
    answered .supervisor (.enqueue 0 7 2 300 2500 0 9 1300 1 3 0 1) calm = some (1, [1, 1, 0x1F]) := by decide +kernel

theorem test_cancel :
    (asked .supervisor (.cancel 0 41) (calm.setQueue [order])).queue = [] := by decide +kernel

theorem test_read_queue :
    answered .observer (.readQueue 0) (calm.setQueue [order]) = some (0, [1, 0, 41, 0, 2, 0]) := by decide +kernel

theorem test_read_order_fields :
    answered .observer (.readOrder 0 41 0) (calm.setQueue [order]) =
      some (0, [0, 41, 2, 1, 0x2C, 0, 40, 0, 35, 2, 0x58, 0, 0, 0xFF, 0xFF, 2, 8, 2, 1]) := by decide +kernel

theorem test_take_head :
    answered .head (.takeHead 0 1) (sewing .run false) =
      some (0, [0, 0, 0, 1, 1, 0, 20, 2, 0x6C, 0, 0, 0xFF, 0xFF, 0, 0, 41]) := by decide +kernel

theorem test_take_head_parked :
    let s := sewing .run false
    ((asked .head (.takeHead 0 1) (s.setGh { s.gh with parked := 0x00FF })).sw.ring.head?.bind Record.effective) =
      some 0xFF00 := by decide +kernel

theorem test_take_feed :
    answered .feed (.takeFeed 0 1) (sewing .run false) =
      some (0, [0, 0, 0, 1, 1, 0, 30, 0, 0, 4, 6, 0, 0, 41]) := by decide +kernel

theorem test_report_moved_no_reposition :
    answered .head (.reportMoved 0 1) (sewing .halted true) = some (0x20, [0, 0, 0, 2]) := by decide +kernel

theorem test_start_empty : answered .supervisor (.start 0) calm = some (0x19, []) := by decide +kernel

theorem test_start :
    let t := asked .supervisor (.start 0) (calm.setQueue [order])
    (t.rc.state, t.sx.state, t.pl.port.inFlight, t.sx.checkpoint.map Context.copy) =
      (.priming, .expanding, some (.expander 2 0 true), some (some 1)) := by decide +kernel

theorem test_stop :
    (asked .supervisor (.stop 0) (sewing .run true)).lp.statePlace.map OutFrame.params =
      some [3, 0, 0x80, 0, 0, 0, 0, 1, 3, 7] := by decide +kernel

theorem test_end_run : (asked .supervisor (.endRun 0) (sewing .run true)).rc.endRequested = true := by decide +kernel

theorem test_resume : (asked .supervisor (.resume 0) (sewing .halted true)).rc.holdDriven = false := by decide +kernel

theorem test_abort :
    let t := asked .supervisor (.abort 0) (sewing .halted true)
    (t.rc.state, t.sw.ring, t.sw.headNext, t.rc.holdDriven) = (.standby, [], 3, false) := by decide +kernel

/-- ABORT empties the pending list without applying it (R48). -/
theorem test_abort_clears_pending :
    let s := (sewing .halted true).setQueue [{ order with pendingLate := [2] }]
    let t := asked .supervisor (.abort 0) (s.setRc { s.rc with openCopy := some (41, 1) })
    t.queue.map (fun o => (o.copiesEnded, o.spliceLate, o.pendingLate)) = [(1, false, [])] := by decide +kernel

/-- The splice-late flag of every order is cleared, with no note or behind the order that the note names (R53). -/
theorem test_abort_clears_late_flags :
    let s := (sewing .halted true).setQueue [{ order with spliceLate := true }, { order with tag := 42, spliceLate := true }]
    ∀ note ∈ [none, some (41, 1)], (asked .supervisor (.abort 0) (s.setRc { s.rc with openCopy := note })).queue.map
      Order.spliceLate = [false, false] := by decide +kernel

theorem test_clear_causes_keeps_break :
    let s := inState .halted
    let s := (s.setRc { s.rc with causes := 0x0003 }).setGh { s.gh with broken := 1 }
    answered .supervisor (.clearCauses 0 0x0003) s = some (0, [0, 1]) := by decide +kernel

theorem test_report_stopped : (asked .head (.reportStopped 0) (inState .halting)).rc.state = .halted := by decide +kernel

theorem test_read_status_sets :
    answered .observer (.readStatus 0 1) calm = some (0, [0, 0, 0, 0, 0, 0, 0, 0, 0, 0, 0, 0]) := by decide +kernel

theorem test_read_status_library :
    answered .observer (.readStatus 0 2) calm = some (0, [0, 0, 0x08, 0, 0, 0, 0, 0, 0, 0]) := by decide +kernel

theorem test_read_counters_last :
    answered .observer (.readCounters 0 13) calm = some (0, [13, 0, 0, 0, 0]) := by decide +kernel

theorem test_clear_counters :
    (asked .supervisor (.clearCounters 0)
      (calm.setLp { calm.lp with counters := { calm.lp.counters with dropped := 3 } })).lp.counters.dropped = 0 := by
  decide +kernel

theorem test_report_break :
    let s := sewing .run true
    let t := asked .thread (.reportBreak 0 0x0003) (s.setGh { s.gh with parked := 1 })
    (said t, t.gh.broken, t.rc.state) = (some (0, [0, 0, 0, 1, 0, 0, 0, 2, 1]), 2, .halting) := by decide +kernel

theorem test_report_mended :
    answered .thread (.reportMended 0 1) (calm.setGh { calm.gh with broken := 3 }) = some (0, [0, 0, 0, 2]) := by
  decide +kernel

theorem test_park :
    let t := asked .supervisor (.park 0 1) (calm.setGh { calm.gh with broken := 3 })
    (t.gh.parked, t.gh.broken) = (1, 2) := by decide +kernel

theorem test_unpark_nothing : answered .supervisor (.unpark 0 0) calm = some (0x10, []) := by decide +kernel

/-- One entry in the history, halted with an empty window. -/
def rewindable : State :=
  let s := (inState .halted).setQueue [order]
  let s := s.setGh { s.gh with history := [(stitch 1 true).entry], rewindable := 1 }
  let s := s.setWt { s.wt with web := 1030, lateral := 620 }
  (s.setRc { s.rc with openCopy := some (41, 1) }).setSw { s.sw with counter := 2, headNext := 2, feedNext := 2 }

theorem test_backstitch :
    let t := asked .supervisor (.backstitch 0 3) rewindable
    (said t, t.sw.ring.map Record.kind, t.sw.ring.map Record.web, t.queue.map Order.rewinds, t.sw.headNext) =
      (some (1, [1, 0, 0, 0, 0, 2, 0xFF, 0xEC, 0xFF, 0xE2]), [.reposition, .sew], [1000, 1030], [1], 2) := by
  decide +kernel

theorem test_read_history :
    answered .observer (.readHistory 0 0) rewindable =
      some (0, [1, 1, 0, 0, 0, 1, 1, 0, 20, 0, 30, 2, 0x6C, 0, 0, 4, 6, 0, 0, 0xFF, 0xFF, 0, 41, 1, 0]) := by decide +kernel

def cutting : State := calm.setWt { calm.wt with cuts := [⟨41, 1, 1320, 0, 2, 0, false⟩, ⟨41, 2, 1660, 0, 0, 0, false⟩] }

theorem test_cut_query :
    answered .cutter (.cutQuery 0) cutting = some (0, [2, 0, 0, 41, 1, 0, 0, 5, 0x28, 0, 0, 0, 2, 0, 0, 2]) := by
  decide +kernel

theorem test_cut_done : answered .cutter (.cutDone 0 41 1) cutting = some (0, [1]) := by decide +kernel

theorem test_cut_done_out_of_order : answered .cutter (.cutDone 0 41 2) cutting = some (0x20, [0, 41, 1]) := by
  decide +kernel

theorem test_report_splice :
    answered .feed (.reportSplice 0 1000) (sewing .run true) =
      some (0x03, [0, 0, 0x03, 0x52, 0, 0, 0x04, 0x7E, 1]) := by decide +kernel

/-- At a distance of 2^31 a position lies after another (R1): the report is not late, and a zone's end is passed. -/
theorem test_half_way_round :
    answered .feed (.reportSplice 0 (0x80000000 + 1000 + 150)) ((sewing .run false).setWt { calm.wt with web := 1000 }) =
        some (0, [0x80, 0, 0x03, 0xE8, 0x80, 0, 0x05, 0x14, 1]) ∧
      ((result (exec (.needleUp 2000) ((sewing .run true).setWt { calm.wt with zones := [⟨0, 0x8000001E⟩] }))).wt.zones) = [] := by
  decide +kernel

theorem test_set_no_setting_five_octets :
    (answered .supervisor (.setSetting 0 0x13 [0, 0, 0, 0, 0]) (inState .run),
      answered .supervisor (.setSetting 0 0x13 [0]) (inState .run)) = (some (0x10, []), some (0x11, [])) := by decide +kernel

theorem test_set_travel :
    let t := asked .supervisor (.setSetting 0 4 [0x01, 0xF4]) (calm.setQueue [order])
    (said t, t.st.working.homeLateral, t.queue.map Order.start) =
      (some (0, [1, 0xF4, 1, 0xF4, 1]), 500, [500]) := by decide +kernel

theorem test_set_role_duplicate : answered .supervisor (.setRole 0 9 2) calm = some (0x1A, []) := by decide +kernel

theorem test_write_setup :
    (asked .supervisor (.writeSetup 0) calm).pl.op.map Op.point = some (.stepping .signatureZero) := by decide +kernel

theorem test_reload_setup_refused : answered .supervisor (.reloadSetup 0) (inState .run) = some (0x11, []) := by
  decide +kernel

theorem test_reset_part : (asked .supervisor (.resetPart 0) calm).lp.resetPart = .accepted := by decide +kernel

theorem test_reset_part_apply :
    let t := result (exec .resetPartApply ((sewing .halted true).setLp { calm.lp with resetPart := .due }))
    (t.sw.ring, t.sw.counter, t.lp.statePlace.map OutFrame.params) = ([], 1, some [0, 0, 0, 0, 0, 0, 0, 1, 0, 0xFF]) := by
  decide +kernel

theorem test_read_setting : answered .observer (.readSetting 0 4) calm = some (0, [4, 0xB0]) := by decide +kernel

theorem test_read_table :
    answered .observer (.readTable 0) calm = some (0, [5, 0, 1, 2, 2, 3, 3, 4, 4, 5, 5]) := by decide +kernel

/-! ### A state that meets the hypotheses of each statement -/

theorem served_meets (r : RunState) (role : Role) (c : Instr) :
    Serving (served role c (inState r)) (sv role c) c ∧ (served role c (inState r)).rc.state = r :=
  ⟨serves rfl _ _, rfl⟩

theorem witness_StepTakesFrontCommand :
    (calm.setPending [.stop 0, .start 0]).pending = .stop 0 :: [.start 0] ∧ calm.pending = [] := ⟨rfl, rfl⟩

theorem witness_RequestFramesRoundTrip :
    encodeRequest (.loadBuffer 31 255 []) = some ⟨31, 0x01, [255]⟩ ∧
      encodeRequest (.takeHead 30 0xFFFFFFFF) = some ⟨30, 0x20, [255, 255, 255, 255]⟩ ∧
      encodeRequest (.cutDone 0 0xFFFF 0) = some ⟨0, 0x51, [255, 255, 0]⟩ := by decide +kernel

def listening (cellTime : Nat) (filter : Bool) (node waiting : Nat) : State :=
  idle.setLp { idle.lp with
    cellTime := cellTime
    filter := filter
    node := node
    inbound := List.replicate waiting ⟨0, 0x31, []⟩ }

theorem witness_DrivenRequestIsReceived :
    (∃ (s : State) (src : NodeId) (params : List Byte), s.ready = true ∧ s.lp.engine = .idle ∧ s.lp.node ≤ 30 ∧
      4 ≤ s.lp.cellTime ∧ (s.lp.filter = true → 8 ≤ s.lp.cellTime) ∧ src ≠ 31#5 ∧ params.length ≤ 25 ∧
      s.lp.inbound.length < 4) ∧
    ∃ (s : State) (src : NodeId) (params : List Byte), s.ready = true ∧ s.lp.engine = .idle ∧ s.lp.node ≤ 30 ∧
      4 ≤ s.lp.cellTime ∧ (s.lp.filter = true → 8 ≤ s.lp.cellTime) ∧ src ≠ 31#5 ∧ params.length ≤ 25 ∧
      s.lp.inbound.length < 4 :=
  ⟨⟨listening 8 true 30 3, 30, List.replicate 25 0, by decide +kernel⟩, ⟨listening 4 false 0 0, 0, [], by decide +kernel⟩⟩

theorem witness_FrameForAnotherNodePasses :
    (∃ (s : State) (dest : NodeId), s.ready = true ∧ s.lp.engine = .idle ∧ 4 ≤ s.lp.cellTime ∧
      (s.lp.filter = true → 8 ≤ s.lp.cellTime) ∧ dest = 31#5) ∧
    ∃ (s : State) (dest : NodeId), s.ready = true ∧ s.lp.engine = .idle ∧ 4 ≤ s.lp.cellTime ∧
      (s.lp.filter = true → 8 ≤ s.lp.cellTime) ∧ dest.toNat ≠ s.lp.node :=
  ⟨⟨listening 8 true 30 4, 31, by decide +kernel⟩, ⟨listening 4 false 0 0, 1, by decide +kernel⟩⟩

theorem witness_UndisturbedFrameIsDelivered : ∀ cell ∈ [(4, false), (8, true)], 4 ≤ cell.1 ∧ (cell.2 = true → 8 ≤ cell.1) := by
  decide

theorem witness_CellReading :
    (∀ next ∈ [3400, 5000], 4 ≤ 4 ∧ 85 * (10 * 4) ≤ next ∧ next ≤ 125 * (10 * 4) ∧
      (12 * (10 * 4) ≤ 480 ∧ 1520 ≤ 38 * (10 * 4)) ∧ (50 * (10 * 4) ≤ 2000 ∧ 3200 ≤ 80 * (10 * 4)) ∧
      479 < 12 * (10 * 4) ∧ (38 * (10 * 4) < 1521 ∧ 1999 < 50 * (10 * 4)) ∧ 80 * (10 * 4) < 3201) ∧
    (3399 < 85 * (10 * 4) ∧ 125 * (10 * 4) < 5001) ∧
    (∀ c ∈ [(⟨30000, some 32000⟩ : LineCell), ⟨2000, none⟩], 2000 ≤ c.dominant ∧ ∀ n, c.next = some n → 2000 ≤ n - c.dominant) ∧
    (1999 < 2000 ∧ 2000 ≤ 2000 ∧ 2000 ≤ 4000 - 2000) ∧ 2000 < 3999 ∧ 3999 - 2000 < 2000 := by
  refine ⟨by decide, by decide, ?_, by decide, by decide⟩
  intro c hc
  simp only [List.mem_cons, List.not_mem_nil, or_false] at hc
  rcases hc with rfl | rfl <;> simp

/-- A step that every property kept by every step is about: the second record of the window retires. -/
def before : State := (sewing .run true).setPending [.needleUp 2000]

theorem witness_MemoryStaysCanonical :
    ∃ s t : State, MemoryCanonical s ∧ step s = .next t := ⟨before, _, by unfold MemoryCanonical; decide +kernel, rfl⟩

theorem witness_GroupSetsStayApart :
    ∃ s t : State, GroupsApart s ∧ step s = .next t := ⟨before, _, by unfold GroupsApart; decide +kernel, rfl⟩

theorem witness_RunStateTableIsKept : ∃ s t : State, RunStateTable s ∧ step s = .next t := by
  refine ⟨before, _, ⟨?_, ?_, ?_, ?_, ?_, ?_⟩, rfl⟩ <;> simp [before, sewing, inState, calm, Settling, LinePort.afterReset]

theorem witness_WindowStaysOrdered : ∃ s t : State, WindowOrdered s ∧ SerialsGiven s ∧ step s = .next t := by
  refine ⟨before, _, ⟨?_, ?_, ?_, ?_, ?_⟩, ⟨?_, ?_, ?_, ?_⟩, rfl⟩ <;>
    simp [before, sewing, inState, calm, Consecutive, nextSerial, stitch, Groups.afterReset]

theorem witness_SettingsStayInRange :
    ∃ s t : State, SettingsInRange s.st.working ∧ RolesSound s ∧ step s = .next t := by
  refine ⟨before, _, ?_, ⟨?_, ?_, ?_, ?_⟩, rfl⟩
  · constructor <;> simp [before, sewing, inState, calm, settings, Settings.defaults, within]
  · decide +kernel
  · decide +kernel
  · intro sv src node role h
    have : before.lp.service = none := rfl
    rw [this] at h
    exact absurd h (by simp)
  · exact fun _ => rfl

theorem witness_ListsStayWithinSizes : ∃ s t : State, WithinSizes s ∧ step s = .next t := by
  refine ⟨before, _, ⟨?_, ?_, ?_, ?_, ?_, ?_, ?_, ?_, ?_⟩, rfl⟩ <;> decide +kernel

theorem witness_RoundedDivision : 1 ≤ 1 ∧ (0 : Int) ≤ 0 := by decide

theorem witness_SewStepsWithinLimits :
    ∃ (st : Settings) (g : Segment) (k : Nat), 1 ≤ st.xMax ∧ 1 ≤ st.yFwd ∧ (g.b < 0 → 1 ≤ st.yRev) ∧ g.b < 0 ∧ 1 ≤ k ∧
      k ≤ runSteps st 35 g :=
  ⟨{ settings with xMax := 1, yFwd := 1, yRev := 1 }, ⟨some .run, 3, -7, 0, 0⟩, 7, by decide +kernel⟩

/-- The run-out's only step: the copy's last record, and its closing one. -/
def closing : State :=
  let s := expanding
  s.setSx { s.sx with
    hand := []
    context := { s.sx.context with
      phase := .runOut, steps := 1, step := 0, intended := 600, baseLateral := 600, baseY := 300, panelY := 300 } }

/-- The plan is to make a record, the last of the copy and the closing one or not. -/
def makes (p : Plan) (last closes : Bool) : Bool :=
  match p with
  | .make _ _ l c => l == last && c == closes
  | _ => false

theorem makes_record {p : Plan} {last closes : Bool} (h : makes p last closes = true) :
    ∃ m first l c, p = .make m first l c ∧ l = last ∧ c = closes := by
  unfold makes at h
  split at h
  · simp only [Bool.and_eq_true, beq_iff_eq] at h
    exact ⟨_, _, _, _, rfl, h.1, h.2⟩
  · exact absurd h (by decide)

theorem witness_RecordsAreClamped :
    ∃ (e : CopyEnv) (c : Context) (hand : List (Nat × Segment)) (m : Making) (first last closing : Bool),
      e.plan c hand = .make m first last closing := by
  have h : makes ((⟨order, zigzag, settings⟩ : CopyEnv).plan expanding.sx.context expanding.sx.hand) false false = true := by
    decide +kernel
  obtain ⟨m, f, l, c, h, -, -⟩ := makes_record h
  exact ⟨_, _, _, m, f, l, c, h⟩

/-- Page data of three bytes in hand; what a reset in the middle of them leaves is told by the bytes listed. -/
def paged : State := working (.commit 2 0 [(32, 1), (33, 0), (34, 2)]) .pageData false

theorem witness_ResetsGiveResetValues :
    (calm.pins.resetnLow = false) ∧
    ((calm.setPins ⟨true, true⟩).pins.resetnLow = true ∧ (calm.setPins ⟨true, true⟩).pins.supply = true) ∧
    ((calm.setLp { calm.lp with resetPart := .due }).ready = true ∧
      (calm.setLp { calm.lp with resetPart := .due }).lp.resetPart = .due) ∧
    calm.pl.op = none ∧
    (working (.erase 2) .voidMarkFirst false).pl.op.map (fun o => (o.work, o.point)) = some (.erase 2, .stepping .voidMarkFirst) ∧
    (paged.pl.op.map (fun o => (o.work, o.point)) = some (.commit 2 0 ([] ++ (32, 1) :: [(33, 0)] ++ (34, 2) :: []), .stepping .pageData) ∧
      risingCells ([] ++ (32, 1) :: [(33, 0)] ++ (34, 2) :: []) = true ∧
      arrayByte (paged.pl.cutShort [(pageBase 2 0 + 34, 0)]) (pageBase 2 0 + 34) ≠ arrayByte paged.pl.array (pageBase 2 0 + 34)) := by
  decide +kernel

theorem witness_NeedleUpOutsideSewing :
    1999 < 2000 ∧ ∀ r ∈ [RunState.standby, .priming, .halted], (inState r).ready = true ∧ 2000 ≤ 2000 ∧ (inState r).rc.state = r := by
  decide +kernel

/-- A record about to retire, with records behind it, REPLAY records waiting, and entries in the history. -/
def retiring (r : Record) (behind waiting h : Nat) : State :=
  let s := sewing .run true
  (s.setSw { s.sw with
    ring := r :: (List.range behind).map fun i => stitch (BitVec.ofNat 32 (i + 2)) false
    waiting := List.replicate waiting (stitch 0 false)
    counter := BitVec.ofNat 32 (behind + 2) }).setGh
      { s.gh with history := List.replicate h (stitch 0 true).entry, rewindable := h }

/-- The last record before the end of the run about to retire, and a full window behind which the expander holds. -/
def lastOne (why : HoldReason) : State := (retiring (stitch 1 true) 0 0 63).setSx { calm.sx with state := .holding why }

def windowFull (s : State) : State :=
  let r := retiring (stitch 1 true) 15 0 64
  ((r.setQueue s.queue).setSx { s.sx with state := .holding .windowFull }).setWt { s.wt with cuts := List.replicate 7 ⟨41, 1, 0, 0, 0, 0, false⟩ }

theorem witness_NeedleUpRetiresOldest :
    (∀ state ∈ [RunState.run, .halting], (sewing state true).ready = true ∧ 2000 ≤ 2000 ∧ (sewing state true).rc.state = state ∧
      (sewing state true).sw.ring = stitch 1 true :: [stitch 2 false] ∧ (sewing state true).sw.waiting = []) ∧
    (∀ r ∈ [stitch 1 true, { stitch 1 true with dy := 0 }, { stitch 1 true with flags := ⟨false, true, true, false, true⟩ },
        { stitch 1 true with flags := ⟨true, false, false, false, false⟩ }],
      ∀ p ∈ [(15, 1, 64), (0, 0, 63)], (retiring r p.1 p.2.1 p.2.2).ready = true ∧
        (retiring r p.1 p.2.1 p.2.2).rc.state = .run ∧ (retiring r p.1 p.2.1 p.2.2).sw.ring.head? = some r ∧
        r.kind ≠ .reposition ∧ r.takenHead = true ∧ r.takenFeed = true ∧
        (retiring r p.1 p.2.1 p.2.2).sw.ring.length = p.1 + 1 ∧ (retiring r p.1 p.2.1 p.2.2).sw.waiting.length = p.2.1 ∧
        (retiring r p.1 p.2.1 p.2.2).gh.history.length = p.2.2) ∧
    (∀ why ∈ [HoldReason.queueEmpty, .endRequested], (lastOne why).ready = true ∧ (lastOne why).rc.state = .run ∧
      (lastOne why).sw.ring = stitch 1 true :: [] ∧ (lastOne why).sw.waiting = [] ∧ (lastOne why).sx.state = .holding why) ∧
    ∀ s ∈ [(expanding, false), (closing, true)], (windowFull s.1).ready = true ∧ (windowFull s.1).rc.state = .run ∧
      (windowFull s.1).sx.state = .holding .windowFull ∧ (windowFull s.1).sw.ring.length = 16 ∧
      makes (result (exec (.needleUp 2000) (windowFull s.1))).plan s.2 s.2 = true ∧
      (result (exec (.needleUp 2000) (windowFull s.1))).wt.cuts.length +
        (result (exec (.needleUp 2000) (windowFull s.1))).wt.reservations.length < 8 := by decide +kernel

/-- The last record of a copy of an order stands at the head, its reservation made. -/
def lastStitch (clipped : Bool) : Record := { stitch 1 true with flags := ⟨false, true, clipped, false, false⟩ }

def completing (limit places : Nat) (clipped : Bool) : State :=
  let s := (sewing .run true).setQueue [{ order with tag := 40 }, { order with copyLimit := limit }]
  let s := s.setSw { s.sw with ring := [lastStitch clipped] }
  let s := s.setLp { s.lp with general := List.replicate places ⟨0, .answer, 0, [], 3, 0, .none⟩ }
  s.setWt { s.wt with reservations := [⟨40, 1, 1000, 7⟩, ⟨41, 1, 1320, 1⟩] }

theorem witness_LastRetirementCompletesCopy : ∀ limit ∈ [1, 2], ∀ places ∈ [4, 5], ∀ clipped : Bool,
    (completing limit places clipped).ready = true ∧ 2000 ≤ 2000 ∧ (completing limit places clipped).rc.state = .run ∧
      (completing limit places clipped).sw.ring = lastStitch clipped :: [] ∧ (lastStitch clipped).kind ≠ .reposition ∧
      (lastStitch clipped).takenHead = true ∧ (lastStitch clipped).takenFeed = true ∧ (lastStitch clipped).flags.last = true ∧
      findOrder (completing limit places clipped).queue (lastStitch clipped).tag = some { order with copyLimit := limit } ∧
      ((completing limit places clipped).wt.reservations.find? fun x => x.serial == (lastStitch clipped).serial) =
        some ⟨41, 1, 1320, 1⟩ ∧
      (completing limit places clipped).lp.placeFree = decide (places = 4) ∧ order.copiesEnded + 1 = 1 := by decide +kernel

theorem witness_NeedleUpFindingNothingHalts :
    ((sewing .run false).ready = true ∧ 2000 ≤ 2000 ∧ (sewing .run false).rc.state = .run ∧
      (sewing .run false).sw.ring = stitch 1 false :: [stitch 2 false] ∧ (stitch 1 false).takenHead = false) ∧
    ((inState .run).ready = true ∧ (inState .run).rc.state = .run ∧ (inState .run).sw.ring = []) ∧
    ((sewing .halting false).ready = true ∧ (sewing .halting false).rc.state = .halting ∧
      ∀ r ∈ (sewing .halting false).sw.ring, r.takenHead = false) := by decide +kernel

theorem witness_HoldSeenAssertedHalts :
    (∀ r ∈ [RunState.priming, .run, .standby], (inState r).ready = true ∧ 10 ≤ 10 ∧ (inState r).rc.state = r ∧
      (inState r).rc.holdDriven = false ∧ (inState r).rc.holdSeen = false) ∧
    ((inState .halted).ready = true ∧ (inState .halted).rc.holdDriven = true) := by decide +kernel

theorem witness_HaltingEndsInHalted :
    ((inState .halting).ready = true ∧ (inState .halting).rc.state = .halting ∧ (inState .halting).rc.silence.isSome = true) ∧
    ∀ r : RunState, Serving (served .head (.reportStopped 0) (inState r)) (sv .head (.reportStopped 0)) (.reportStopped 0) ∧
      (served .head (.reportStopped 0) (inState r)).rc.state = r :=
  ⟨by decide +kernel, fun r => served_meets r _ _⟩

theorem witness_ExpansionEventAppends :
    (∃ (m : Making) (first last closes : Bool), expanding.plan = .make m first last closes ∧ last = false ∧
      closes = false) ∧
    (∃ (m : Making) (first last closes : Bool), closing.plan = .make m first last closes ∧ last = true ∧ closes = true) ∧
    (∀ s ∈ [expanding, closing], s.ready = true ∧ s.sx.state = .expanding ∧ s.sx.context.tag = some 41 ∧
      s.sx.context.copy = some 1 ∧ s.sw.ring.length < 16 ∧ s.sw.waiting = [] ∧
      s.wt.cuts.length + s.wt.reservations.length < 8 ∧ (findOrder s.queue 41).isSome = true) := by
  exact ⟨makes_record (by decide +kernel), makes_record (by decide +kernel), by decide +kernel⟩

/-- The environment of the order, in one mode; the panel's length is 300. -/
def env (mode : Mode) : CopyEnv := ⟨{ order with mode := mode }, zigzag, settings⟩

/-- The environment in which no repeat fits into the panel. -/
def small : CopyEnv := ⟨{ order with length := 127 }, zigzag, settings⟩

/-- The lead-in done, as its last record leaves it. -/
def led : Context := { expanding.sx.context with step := 2, steps := 2 }

/-- Between segment 1 and the next, in a seam, as the last record of segment 1 leaves the context. -/
def between : Context :=
  { expanding.sx.context with
    phase := .body, segment := 1, step := 3, steps := 3, seam := true, tackCount := 2, tackLength := 8 }

def segment (op : SegmentOp) (a b : Int) : Segment := ⟨some op, a, b, 0, 0⟩

def runSegment : Segment := segment .run 60 60

def endSegment : Segment := segment .endOfBody 0 0

theorem led_done : LeadInDone led := by unfold LeadInDone; decide +kernel

theorem between_before (seam : Bool) (y : Int) : BeforeSegment { between with seam := seam, panelY := y } := by
  unfold BeforeSegment; exact ⟨rfl, rfl, Nat.le_refl _⟩

/-- A repeat fits exactly where it ends at the panel's end, and not one farther on (R68). -/
theorem fits_exactly : RepeatFits (env .whole) { between with panelY := 172 } ∧
    ¬ RepeatFits (env .whole) { between with panelY := 173 } ∧ ¬ RepeatFits small led ∧
    RepeatFits (env .truncate) { between with panelY := 300 } := by unfold RepeatFits; decide +kernel

/-- The first step of a segment that ends at the panel's end is made, and one that ends beyond it is cut (R69). -/
theorem cut_exactly : (∀ g ∈ [runSegment, segment .jump 0 9], ¬ CutAtStart (env .truncate) { between with
      seam := false, panelY := 300 - (if g.op = some .run then 20 else 9) } g) ∧
    CutAtStart (env .truncate) { between with panelY := 281 } runSegment := by
  unfold CutAtStart; decide +kernel

theorem not_cut_whole (c : Context) (g : Segment) : ¬ CutAtStart (env .whole) c g := fun h => by cases h.1

theorem witness_ExpanderMakesRecords :
    -- the lead-in goes on
    ((led.phase = .leadIn ∧ led.tack = none ∧ ({ led with step := 1 } : Context).step < led.steps ∧
      led.panelY ≠ (env .whole).order.length)) ∧
    -- a tack group goes on or ends, explicit or not
    (∀ phase ∈ [Phase.body, .endTack], ∀ kind ∈ [TackKind.start, .explicit], ∀ index ∈ [1, 2],
      let c : Context := { between with phase := phase, tack := some ⟨kind, index, 2, 8⟩ }
      (c.phase = .body ∨ c.phase = .endTack) ∧ c.tack = some ⟨kind, index, 2, 8⟩ ∧ (index < 2 ∨ 2 ≤ index)) ∧
    -- no segment in hand, after the lead-in and between segments
    (∃ c d, Passes (env .whole) c [] d [] ∧ d.phase = .body ∧ d.tack = none ∧ c.phase = .leadIn) ∧
    (∃ d, Passes (env .whole) between [(2, endSegment)] d [] ∧ d.phase = .body ∧ d.tack = none) ∧
    -- a segment is reached: after the lead-in, and past GROUPS and a JUMP of no length between segments
    (∀ g : Segment, ∃ d, Passes (env .whole) led [(0, g)] d ((d.position, g) :: []) ∧ BeforeSegment d ∧
      ¬ CutAtStart (env .whole) d g ∧ d.seam = false ∧ 2 ≤ d.tackCount) ∧
    (∀ g : Segment, ∃ d, Passes (env .whole) { between with seam := false }
      [(2, segment .groups 1 1), (3, segment .jump 0 0), (4, g)] d ((d.position, g) :: []) ∧ BeforeSegment d ∧
      ¬ CutAtStart (env .whole) d g ∧ d.seam = false) ∧
    (∀ g : Segment, Passes (env .whole) between [(2, g)] between ((between.position, g) :: []) ∧ BeforeSegment between ∧
      ¬ CutAtStart (env .whole) between g ∧ between.seam = true ∧ 2 ≤ between.tackCount) ∧
    (∀ g ∈ [segment .tack 2 8, segment .tack 6 1], g.op = some .tack ∧ 2 ≤ g.a) ∧
    -- a step of a RUN or of a JUMP in hand, ending at the panel's end or beyond it
    (∀ op ∈ [SegmentOp.run, .jump], let c : Context := { between with step := 1, baseY := 260 }
      let g := segment op 60 60
      c.phase = .body ∧ c.tack = none ∧ c.step < c.steps ∧
      c.baseY + rdiv (g.b * (c.step + 1 : Nat)) c.steps = (env .truncate).order.length ∧
      makes ((env .truncate).plan c [(1, g)]) false false = true ∧
      ((env .truncate).order.length : Int) < 261 + rdiv (g.b * (c.step + 1 : Nat)) c.steps ∧
      makes ((env .truncate).plan { c with baseY := 261 } [(1, g)]) false false = true) ∧
    -- the run-out goes on, or ends the copy
    (∀ step ∈ [0, 1], let c : Context := { closing.sx.context with step := step, steps := 2 }
      c.phase = .runOut ∧ c.tack = none ∧ c.step < c.steps ∧
      makes ((env .whole).plan c []) (step == 1) (step == 0) = true) := by
  refine ⟨by decide +kernel, by decide +kernel,
    ⟨led, _, .firstRepeat led_done (.inr (by decide +kernel)) (.stands _ _), rfl, rfl, rfl⟩,
    ⟨_, .nextRepeat (between_before true 0) rfl (.inr (by decide +kernel)) (.stands _ _), rfl, rfl⟩,
    fun g => ⟨_, .firstRepeat led_done (.inr (by decide +kernel)) (.stands _ _), ⟨rfl, rfl, Nat.le_refl _⟩,
      not_cut_whole _ _, by decide +kernel, by decide +kernel⟩,
    fun g => ⟨_, .groups (between_before false 0) rfl (.noMove ⟨rfl, rfl, Nat.le_refl _⟩ rfl rfl rfl (.inl rfl)
      (.stands _ _)), ⟨rfl, rfl, Nat.le_refl _⟩, not_cut_whole _ _, rfl⟩,
    fun g => ⟨.stands _ _, between_before true 0, not_cut_whole _ _, rfl, by decide +kernel⟩,
    by decide +kernel, by decide +kernel, by decide +kernel⟩

/-- The five ways in which the body ends, in a seam or not, with a run-out or none. -/
theorem witness_ExpanderMakesRecords_end :
    (∀ e seam, BodyEnds e { between with phase := .endTack, seam := seam } [] { between with phase := .endTack, seam := seam }) ∧
    BodyEnds small led [] led ∧ led.seam = false ∧
    BodyEnds (env .whole) { between with panelY := 173 } [(2, endSegment)] { between with panelY := 173 } ∧
    BodyEnds (env .truncate) { between with panelY := 281 } [(2, runSegment)] { between with panelY := 281 } ∧
    BodyEnds (env .truncate) { between with step := 1, baseY := 281 } [(1, runSegment)]
      { between with step := 1, baseY := 281 } ∧
    (makes ((env .whole).plan { between with panelY := 173 } [(2, endSegment)]) false false = true ∧
      makes ((env .whole).plan { between with panelY := 173, seam := false } [(2, endSegment)]) false true = true) ∧
    (∃ e : CopyEnv, e.order.gap = 0 ∧ let d : Context := { between with phase := .endTack, seam := false, panelY := 300 }
      (e.order.start : Int) - d.intended = 0 ∧ (e.order.length : Int) - d.panelY + e.order.gap = 0) := by
  refine ⟨fun e seam => .endTack rfl rfl, .noRepeat led_done fits_exactly.2.2.1, rfl,
    .atEnd (.stands _ _) (between_before true 173) rfl fits_exactly.2.1,
    .cutAtStart (.stands _ _) (between_before true 281) cut_exactly.2,
    .cutWithin rfl rfl rfl (by decide +kernel) rfl (by decide +kernel), by decide +kernel,
    ⟨⟨{ order with gap := 0 }, zigzag, settings⟩, by decide +kernel⟩⟩

/-- An operation's steps that program bytes, each with an operation that has it. -/
def programSteps : List (OpWork × ArrayStep) :=
  [(.commit 2 0 [(32, 1)], .openedMark), (.commit 2 0 [(32, 1)], .pageData), (.close 2 (some zigzag), .summaryFields),
    (.close 2 (some zigzag), .closedMark), (.erase 2, .voidMarkFirst), (.commit 2 0 [(32, 1)], .voidMarkAfterFailure)] ++
  [(.setup settings false, .signatureZero), (.setup settings true, .setupFields), (.setup settings false, .signatureWrite)]

theorem witness_ProgramStepEndsCommit :
    (∀ x ∈ programSteps, (working x.1 x.2 false).powered = true ∧
      (working x.1 x.2 false).pl.op = some ⟨x.1, .stepping x.2, false, false⟩ ∧ stepErases x.2 = false ∧
      readBack (programCells (working x.1 x.2 false).pl.array [] (x.1.cells x.2)) (x.1.cells x.2) = true ∧
      ∃ c ∈ x.1.cells x.2, readBack (programCells (working x.1 x.2 false).pl.array [(c.1, ~~~c.2)] (x.1.cells x.2))
        (x.1.cells x.2) = false) ∧
    arrayByte (programCells [(markAddress 2, 0x7E)] [] ((OpWork.close 2 (some zigzag)).cells .summaryFields))
      (markAddress 2) = 0x7E ∧
    ∀ mark ∈ [(0x7E : Byte), 0x00], arrayByte (programCells [(markAddress 2, mark)] [(8224, 3)]
      ((OpWork.commit 2 0 [(32, 1)]).cells .pageData)) (markAddress 2) = mark := by decide +kernel

theorem witness_EraseEnds :
    ((working (.erase 2) .slotErase false).powered = true ∧
      (working (.erase 2) .slotErase false).pl.op = some ⟨.erase 2, .stepping .slotErase, false, false⟩ ∧
      ∀ o ∈ [0, 4095], o < 4096 ∧ (0 : Byte) ≠ 0xFF) ∧
    (∀ zeroFailed : Bool, (working (.setup settings zeroFailed) .setupErase false).powered = true ∧
      (working (.setup settings zeroFailed) .setupErase false).pl.op =
        some ⟨.setup settings zeroFailed, .stepping .setupErase, false, false⟩ ∧ ∀ o ∈ [0, 255], o < 256) ∧
    (∀ x ∈ programSteps, arrayByte (working x.1 x.2 false).pl.array (setupBase + 1) ≠ 0x5A) ∧
    (∀ x ∈ programSteps, (working x.1 x.2 false).powered = true ∧
      (working x.1 x.2 false).pl.op = some ⟨x.1, .stepping x.2, false, false⟩ ∧
      ∀ mark ∈ [(0x00 : Byte), 0x7E], ∃ left, x.2 = .pageData ∨ x.2 = .summaryFields →
        arrayByte (((working x.1 x.2 false).setPl
          { (working x.1 x.2 false).pl with array := [(markAddress 2, mark)] }).pl.expired left) (markAddress 2) = mark) := by
  refine ⟨by decide +kernel, by decide +kernel, by decide +kernel, ?_⟩
  intro x hx
  refine ⟨rfl, rfl, fun mark hm => ⟨[], ?_⟩⟩
  revert mark x
  decide +kernel

/-- A copy in expansion beside an erase that runs: one record can be made, and the next one needs a segment. -/
def needing (interval : Bool) : State :=
  let s := expanding
  let s := s.setSx { s.sx with
    hand := [(0, ⟨some .run, 60, 60, 0, 0⟩)]
    context := { s.sx.context with phase := .body, step := 2, steps := 3, seam := true } }
  s.setPl { s.pl with op := some ⟨.erase 5, .stepping .slotErase, interval, false⟩ }

/-- Once the record that can be made is made, a segment is needed. -/
def thenNeeds (s : State) (i : Nat) : Bool :=
  match s.plan with
  | .make m _ _ _ => m.context.tag == s.sx.context.tag &&
    (s.setSx { s.sx with context := m.context, hand := m.hand }).plan == .need i
  | _ => false

/-- The segment that the expander needs is being read while the erase is paused, another read waiting or not. -/
def reading (context : Context) (hand : List (Nat × Segment)) (waits : Option ReadFor) : State :=
  let s := expanding
  let s := s.setSx { s.sx with hand := hand, context := context }
  s.setPl { s.pl with
    op := some ⟨.erase 5, .stepping .slotErase, false, true⟩
    port := { Port.quiet with inFlight := some (.expander 2 0 false), expander := waits } }

theorem witness_ProgressIntervalEnds :
    (∃ s : State, s.powered = true ∧ s.pl.op = some ⟨.erase 5, .stepping .slotErase, true, false⟩ ∧
      s.pl.port.inFlight = none ∧ s.pl.port.expander = some (.expander 2 0 true)) ∧
    (∃ s : State, s.powered = true ∧ s.pl.op = some ⟨.erase 5, .stepping .slotErase, true, false⟩ ∧
      s.pl.port.inFlight = none ∧ s.pl.port.expander = none) ∧
    (∀ interval : Bool, (needing interval).ready = true ∧
      (needing interval).pl.op = some ⟨.erase 5, .stepping .slotErase, interval, false⟩ ∧ (needing interval).pl.port = .quiet ∧
      (needing interval).sx.state = .expanding ∧ makes (needing interval).plan false false = true ∧
      (needing interval).sx.context.tag = some 41 ∧ (needing interval).sx.context.copy = some 1 ∧
      (needing interval).sw.ring = [] ∧ (needing interval).sw.waiting = [] ∧
      (findOrder (needing interval).queue 41).isSome = true ∧
      thenNeeds (needing interval) 1 = true) ∧
    (∃ s, s = reading expanding.sx.context expanding.sx.hand none ∧ s.ready = true ∧
      s.pl.port.inFlight = some (.expander 2 0 false) ∧ s.pl.port.expander = none ∧ makes s.plan false false = true) ∧
    (∃ s, s = reading expanding.sx.context [] none ∧ s.ready = true ∧ s.pl.port.expander = none ∧
      s.sx.state = .expanding ∧ s.sx.context.tag = some 41 ∧ (findOrder s.queue 41).isSome = true ∧ s.plan = .need 0) ∧
    ∃ s, s = reading expanding.sx.context [] (some (.expander 2 0 true)) ∧ s.pl.port.expander = some (.expander 2 0 true) :=
  ⟨⟨waiting true, by decide +kernel⟩, ⟨working (.erase 5) .slotErase true, by decide +kernel⟩, by decide +kernel,
    ⟨_, rfl, by decide +kernel⟩, ⟨_, rfl, by decide +kernel⟩, ⟨_, rfl, rfl⟩⟩

/-- Slot 31 in each table state that an operation takes, a page's bytes loaded at the ends of the reserved area. -/
def holding (e : SlotEntry) (page : List Host.Cell) : State :=
  calm.setPl { calm.pl with
    table := calm.pl.table.set 31 e
    pageBuffer := page
    array := [(markAddress 31, 0x3C)] }

/-- Bytes as the array lists them. -/
def stored (a : Nat) (bytes : List Byte) : List Host.Cell := (placeBytes a bytes).filter fun c => c.2 != 0xFF

/-- A setup page that holds settings with eight roles. -/
def fullTable : Settings :=
  { settings with roles := settings.roles ++ [⟨6, .thread⟩, ⟨7, .observer⟩, ⟨30, .observer⟩] }

def setupPage : List Host.Cell := stored setupBase (0xC3 :: 0x5A :: setupFieldBytes fullTable)

theorem setupPage_is_read : readSetupPage setupPage = .ok fullTable := by rfl

theorem witness_LibraryReadIsAnswered :
    (∃ s : State, s.powered = true ∧ s.pl.port.inFlight = some (.library 31 15 255 20) ∧
      s.lp.service.map Service.phase = some .library) ∧
    (∀ page ∈ [[], [(15, (0 : Byte)), (31, 0)], [(15, 0), (32, 0)]],
      let s := (asked .supervisor (.commitPage 0 31 0) (holding .opened [])).setPl
        { (asked .supervisor (.commitPage 0 31 0) (holding .opened [])).pl with pageBuffer := page }
      s.powered = true ∧ s.pl.port.inFlight = some (.written 31 0) ∧ s.lp.service.map Service.phase = some .written ∧
        s.pl.op = none ∧ tableEntry s.pl.table 31 = some .opened ∧
        ((∃ c ∈ page, arrayByte s.pl.array (pageBase 31 0 + c.1) ≠ 0xFF) ↔ (31, 0) ∈ page)) ∧
    (∃ s : State, s.powered = true ∧ s.pl.port.inFlight = some .reload ∧ s.lp.service.map Service.phase = some .reload ∧
      readSetupPage s.pl.array = .error 0) ∧
    ∃ s : State, s.powered = true ∧ s.pl.port.inFlight = some .reload ∧ s.lp.service.map Service.phase = some .reload ∧
      readSetupPage s.pl.array = .ok fullTable :=
  ⟨⟨asked .observer (.readLibrary 0 31 15 255 20) calm, by decide +kernel⟩, by decide +kernel,
    ⟨asked .supervisor (.reloadSetup 0) calm, by decide +kernel, by decide +kernel, by decide +kernel, by rfl⟩,
    ⟨asked .supervisor (.reloadSetup 0) (calm.setPl { calm.pl with array := setupPage }), by decide +kernel, by decide +kernel,
      by decide +kernel, by rfl⟩⟩

/-- A CLOSED zigzag as the array holds it in slot 2, with a slot mark. -/
def pattern (mark : Byte) : List Host.Cell :=
  stored (slotBase 2 + 12) ([0, 3, 35, 0xFF] ++ summaryBytes zigzag ++ [mark] ++
    [1, 0, 60, 0, 60, 0, 0, 0xFF, 1, 0xFF, 0xC4, 0, 60, 0, 0, 0xFF, 0x0F, 0, 0, 0, 0, 0, 0, 0xFF])

/-- A walk of three segments that stands at one of them. -/
def walkAt (index : Nat) (x y : Int) : Walk := ⟨3, 35, index, x, y, 120, 0, 60, false⟩

def validating (v : Validation) (array : List Host.Cell) : State :=
  calm.setPl { calm.pl with
    array := array
    op := some ⟨.close 2 none, .validating v, false, false⟩
    port := { Port.quiet with inFlight := some .closing } }

theorem witness_ValidationFollowsChecks :
    (0 < 1 ∧ 508 < 509 ∧ (1 ≤ 508 ∧ 508 ≤ 508) ∧ 9 < 10 ∧ 100 < 101 ∧ 10 ≤ 10) ∧
    (∀ x ∈ [0, 1, 9, 10, 100, 101], (x = 0 ∨ 10 ≤ x ∧ x ≤ 100) ∨ ((x ≠ 0 ∧ x < 10) ∨ 100 < x)) ∧
    (∀ y ∈ [(0 : Int), -1], (walkAt 1 0 60).y + (y - 60) = y ∧ ((walkAt 1 0 60).index + 1 < (walkAt 1 0 60).segments) ∧
      (walkAt 2 0 60).index + 1 = (walkAt 2 0 60).segments) ∧
    (∀ w ∈ [walkAt 2 1 120, walkAt 2 0 0, walkAt 2 0 1], w.index + 1 = w.segments ∧ (w.x ≠ 0 ∨ w.y ≤ 0 ∨ 0 < w.y)) ∧
    (∀ v ∈ [Validation.header, .segment (walkAt 0 0 0), .segment (walkAt 2 0 120), .segment (walkAt 2 1 120)],
      (validating v (pattern 0x7E)).powered = true ∧
      (validating v (pattern 0x7E)).pl.op = some ⟨.close 2 none, .validating v, false, false⟩ ∧
      (validating v (pattern 0x7E)).pl.port.inFlight = some .closing) ∧
    walkHeader (headerSegments (pattern 0x7E) 2) (headerStitch (pattern 0x7E) 2) = .more ⟨3, 35, 0, 0, 0, 0, 0, 0, false⟩ ∧
    walkSegment (walkAt 2 0 120) (readSegment (pattern 0x7E) (segmentAddress 2 2)) = .valid zigzag ∧
    walkSegment (walkAt 2 1 120) (readSegment (pattern 0x7E) (segmentAddress 2 2)) = .bad 2 .netDx := by decide +kernel

def scanning (found : Nat) (r : ScanRead) (array : List Host.Cell) : State :=
  (State.reset.setSt { State.reset.st with startUp := .scanning (List.replicate found .empty) }).setPl
    { State.reset.pl with array := array, port := { Port.quiet with inFlight := some (.scan r) } }

theorem scanningAt (found : Nat) (r : ScanRead) (array : List Host.Cell) :
    ScanningAt (scanning found r array) (List.replicate found .empty) r := ⟨rfl, rfl, rfl, rfl, rfl, rfl⟩

theorem witness_StartUpLoadsAndScans :
    (SettingsInRange fullTable ∧ roleTableOk fullTable.roles = true ∧ fullTable.roles.length ≤ 8 ∧
      arrayBytes setupPage setupBase (28 + 2 * fullTable.roles.length) = 0xC3 :: 0x5A :: setupFieldBytes fullTable) ∧
    (arrayByte [] setupBase ≠ 0xC3 ∧ arrayByte (dropCell setupPage (setupBase + 1)) (setupBase + 1) ≠ 0x5A) ∧
    (∀ r array, ScanningAt (scanning 0 r array) [] r ∧ ScanningAt (scanning 31 r array) (List.replicate 31 .empty) r) ∧
    ((List.replicate 31 SlotEntry.empty).length = 31 ∧ (List.replicate 30 SlotEntry.empty).length < 31) ∧
    (spanBlank (pattern 0x3C) (pageBase 2 0) 256 = false ∧ spanBlank (pattern 0x3C) (pageBase 2 15) 256 = true) ∧
    (∀ mark ∈ [(0x7E : Byte), 0x3C, 0x00, 0xFF], arrayByte (pattern mark) (markAddress 2) = mark) ∧
    walkSegment (walkAt 2 0 120) (readSegment (pattern 0x3C) (segmentAddress 2 2)) = .valid zigzag ∧
    arrayBytes (pattern 0x3C) (slotBase 2 + 16) 15 = summaryBytes zigzag ∧
    arrayBytes (dropCell (pattern 0x3C) (slotBase 2 + 16)) (slotBase 2 + 16) 15 ≠ summaryBytes zigzag :=
  ⟨⟨by constructor <;> simp [fullTable, settings, Settings.defaults, within], by decide +kernel⟩, by decide +kernel,
    fun r array => ⟨scanningAt 0 r array, scanningAt 31 r array⟩, by decide +kernel, by decide +kernel, by decide +kernel,
    by decide +kernel, by decide +kernel, by decide +kernel⟩

theorem witness_LoadBufferLoads : ∀ data ∈ [[], List.replicate 1 (0 : Byte), List.replicate 20 0, List.replicate 21 0],
    Serving (served .supervisor (.loadBuffer 0 255 data) calm) (sv .supervisor (.loadBuffer 0 255 data))
      (.loadBuffer 0 255 data) := fun _ _ => serves rfl _ _

theorem witness_ClearBufferUnloads (r : RunState) :
    Serving (served .supervisor (.clearBuffer 0) (inState r)) (sv .supervisor (.clearBuffer 0)) (.clearBuffer 0) :=
  serves rfl _ _

theorem witness_OperationsAreAccepted :
    (∀ c : Instr, ∀ e page, Serving (served .supervisor c (holding e page)) (sv .supervisor c) c) ∧
    (∀ e ∈ [SlotEntry.empty, .opened, .closed zigzag, .failed], ∀ page ∈ [[], [(15, (0 : Byte)), (32, 0)]],
      (holding e page).pl.op = none ∧ (holding e page).pl.port = .quiet ∧
      hasBit (holding e page).st.working.protect 31 = false ∧
      slotInUse (holding e page).queue 31 = false ∧ tableEntry (holding e page).pl.table 31 = some e ∧
      arrayByte (holding e page).pl.array (markAddress 31) = 0x3C ∧ (holding e page).rc.state = .standby ∧
      ∀ c ∈ (holding e page).pl.pageBuffer, c.1 < 16 ∨ 31 < c.1) ∧
    (calm.pl.op = none ∧ calm.pl.port = .quiet ∧ calm.rc.state = .standby) ∧
    (∀ c : Instr, Serving (served .observer c calm) (sv .observer c) c) :=
  ⟨fun _ _ _ => serves rfl _ _, by decide +kernel, ⟨rfl, rfl, rfl⟩, fun _ => serves rfl _ _⟩

/-- Slot 31 with another protect word, an order of it queued or not. -/
def guarded (word : Word32) (used : Bool) (e : SlotEntry) (page : List Host.Cell) : State :=
  let s := (holding e page).setQueue (if used then [{ order with slot := 31 }] else [])
  s.setSt { s.st with working := { s.st.working with protect := word } }

theorem witness_LibraryRequestsAreRefused :
    (∀ c : Instr, ∀ word used e page, Serving (served .supervisor c (guarded word used e page)) (sv .supervisor c) c) ∧
    (∀ c : Instr, Serving (served .supervisor c (working (.erase 5) .slotErase true)) (sv .supervisor c) c ∧
      (working (.erase 5) .slotErase true).pl.op.isSome = true ∧ (working (.erase 5) .slotErase true).rc.state = .standby) ∧
    (∀ c : Instr, Serving (served .supervisor c (inState .run)) (sv .supervisor c) c ∧ (inState .run).rc.state ≠ .standby) ∧
    (31 < (32 : Byte).toNat ∧ (31 : Byte).toNat ≤ 31 ∧ 15 < (16 : Byte).toNat ∧ (15 : Byte).toNat ≤ 15 ∧
      (0 : Byte).toNat < 1 ∧ 20 < (21 : Byte).toNat) ∧
    (∀ e ∈ [SlotEntry.empty, .opened, .closed zigzag, .failed], ∀ page ∈ [[], [(16, (0 : Byte))], [(31, 0)]],
      (guarded 0x80000000 false e page).pl.op = none ∧
      hasBit (guarded 0x80000000 false e page).st.working.protect 31 = true ∧
      hasBit (guarded 0x7FFFFFFF true e page).st.working.protect 31 = false ∧
      slotInUse (guarded 0x7FFFFFFF true e page).queue 31 = true ∧ slotInUse (guarded 0 false e page).queue 31 = false ∧
      tableEntry (guarded 0 false e page).pl.table 31 = some e ∧
      (page ≠ [] → ∃ c ∈ (guarded 0 false e page).pl.pageBuffer, 16 ≤ c.1 ∧ c.1 ≤ 31)) :=
  ⟨fun _ _ _ _ _ => serves rfl _ _, fun _ => ⟨serves rfl _ _, rfl, rfl⟩, fun _ => ⟨serves rfl _ _, by decide +kernel⟩,
    by decide +kernel, by decide +kernel⟩

theorem witness_ReadsCarryState :
    (∀ c : Instr, Serving (served .observer c calm) (sv .observer c) c ∧
      Serving (served .observer c rewindable) (sv .observer c) c ∧ Serving (served .observer c cutting) (sv .observer c) c) ∧
    (calm.pl.outcome = none ∧ calm.queue = [] ∧ findOrder calm.queue 41 = none ∧ calm.wt.cuts = [] ∧
      calm.pl.table.length = 32 ∧ tableEntry calm.pl.table 31 = some .empty ∧ 2 < (3 : Byte).toNat ∧ 1 < (2 : Byte).toNat) ∧
    (rewindable.queue = [] ++ order :: [] ∧ findOrder rewindable.queue 41 = some order) ∧
    (∀ x ∈ [{ order with tag := 40 }], x.tag ≠ order.tag) ∧
    (rewindable.gh.history.length ≤ 63 ∧ rewindable.gh.history.reverse[0]? = some (stitch 1 true).entry ∧
      63 < (64 : Byte).toNat) ∧
    cutting.wt.cuts = ⟨41, 1, 1320, 0, 2, 0, false⟩ :: [⟨41, 2, 1660, 0, 0, 0, false⟩] ∧
    settingWidth 0x01 = some 1 ∧ settingWidth 0x12 = some 4 ∧ 0x12 < (0x13 : Byte).toNat :=
  ⟨fun _ => ⟨serves rfl _ _, serves rfl _ _, serves rfl _ _⟩, by decide +kernel, by decide +kernel, by decide +kernel,
    by decide +kernel, by decide +kernel, by decide, by decide, by decide⟩

theorem witness_CountersReadAndCleared :
    (∀ c : Instr, Serving (served .supervisor c calm) (sv .supervisor c) c) ∧ (13 : Byte).toNat ≤ 13 ∧
      13 < (14 : Byte).toNat := ⟨fun _ => serves rfl _ _, by decide⟩

/-- Seven orders queued, and a pattern with reverse feed. -/
def nearlyFull : State :=
  let s := calm.setQueue ((List.range 7).map fun i => { order with tag := BitVec.ofNat 16 (100 + i) })
  s.setPl { s.pl with table := s.pl.table.set 31 (.closed { zigzag with reverse := true }) }

theorem witness_EnqueueJoinsTail :
    (∀ tag slot length gap mode start stitch tacks n s, s ∈ [nearlyFull, nearlyFull.setQueue (order :: nearlyFull.queue)] →
      Serving (served .supervisor (.enqueue 0 tag slot length gap mode stitch start 1 tacks tacks n) s)
        (sv .supervisor (.enqueue 0 tag slot length gap mode stitch start 1 tacks tacks n))
        (.enqueue 0 tag slot length gap mode stitch start 1 tacks tacks n)) ∧
    (100 ≤ (100 : Word16).toNat ∧ (40000 : Word16).toNat ≤ 40000 ∧ (99 : Word16).toNat < 100 ∧ 40000 < (40001 : Word16).toNat ∧
      31 < (32 : Byte).toNat ∧ 1 < (2 : Byte).toNat) ∧
    (nearlyFull.queue.length < 8 ∧ 8 ≤ (order :: nearlyFull.queue).length ∧ findOrder nearlyFull.queue 1 = none ∧
      (findOrder nearlyFull.queue 106).isSome = true) ∧
    tableEntry nearlyFull.pl.table 31 = some (.closed { zigzag with reverse := true }) ∧
    tableEntry nearlyFull.pl.table 30 = some .empty ∧ nearlyFull.st.working.yRev ≠ 0 ∧
    (nearlyFull.setSt { nearlyFull.st with working := { settings with yRev := 0 } }).st.working.yRev = 0 := by
  refine ⟨?_, by decide +kernel⟩
  intro tag slot length gap mode start stitch tacks n s hs
  simp only [List.mem_cons, List.not_mem_nil, or_false] at hs
  rcases hs with rfl | rfl <;> exact serves rfl _ _

theorem witness_CancelRemovesOrTrims :
    (∀ s ∈ [calm, calm.setQueue [order], expanding], s.ready = true) ∧ findOrder calm.queue 41 = none ∧
    (findOrder (calm.setQueue [order]).queue 41 = some order ∧
      order.isOpen (calm.setQueue [order]).sw.ring (calm.setQueue [order]).rc.openCopy = false) ∧
    ∃ s : State, Serving (served .supervisor (.cancel 0 41) s) (sv .supervisor (.cancel 0 41)) (.cancel 0 41) ∧
      findOrder s.queue 41 = some order ∧ order.isOpen s.sw.ring s.rc.openCopy = true ∧ s.sx.context.tag = some 41 ∧
      s.sx.context.copy = some 1 :=
  ⟨by decide +kernel, by decide +kernel, by decide +kernel,
    ⟨expanding.setRc { expanding.rc with openCopy := some (41, 1) }, serves rfl _ _, by decide +kernel⟩⟩

theorem witness_TakeIsServed :
    ∃ s : State, Serving (served .head (.takeHead 0 1) s) (sv .head (.takeHead 0 1)) (.takeHead 0 1) ∧
      Serving (served .feed (.takeFeed 0 1) s) (sv .feed (.takeFeed 0 1)) (.takeFeed 0 1) ∧ s.rc.state ≠ .standby ∧
      s.sw.find 1 = some (stitch 1 false) ∧ liesBefore 1 s.sw.oldest = false ∧ s.sw.headNext = 1 ∧ s.sw.feedNext = 1 ∧
      s.sw.lead .head < s.sw.leadLimit ∧ s.sw.lead .feed < s.sw.leadLimit :=
  ⟨sewing .run false, serves rfl _ _, serves rfl _ _, by decide +kernel⟩

theorem witness_TakesNotServedChangeNothing :
    (∀ r serial, Serving (served .head (.takeHead 0 serial) (sewing r true)) (sv .head (.takeHead 0 serial))
      (.takeHead 0 serial) ∧ Serving (served .feed (.takeFeed 0 serial) (sewing r true)) (sv .feed (.takeFeed 0 serial))
      (.takeFeed 0 serial)) ∧
    liesBefore 0xFFFFFFFF (sewing .run true).sw.oldest = true ∧
    (liesBefore 1 (sewing .run true).sw.oldest = false ∧ liesBefore 1 (sewing .run true).sw.headNext = true ∧
      liesBefore 1 (sewing .run true).sw.feedNext = true ∧ (sewing .run true).sw.find 1 = some (stitch 1 true)) ∧
    (∃ s : State, s.sw.headNext = 3 ∧ s.sw.leadLimit ≤ s.sw.lead .head ∧ s.sw.feedNext = 3 ∧
      s.sw.leadLimit ≤ s.sw.lead .feed ∧ liesBefore 3 s.sw.oldest = false) ∧
    (∃ s : State, s.sw.headNext = 3 ∧ s.sw.lead .head < s.sw.leadLimit ∧ s.sw.feedNext = 3 ∧
      s.sw.lead .feed < s.sw.leadLimit ∧ s.sw.find 3 = none ∧ liesBefore 3 s.sw.oldest = false) ∧
    (liesBefore 3 (sewing .run true).sw.oldest = false ∧ liesBefore 3 (sewing .run true).sw.headNext = false ∧
      liesBefore 3 (sewing .run true).sw.feedNext = false ∧ 3 ≠ (sewing .run true).sw.headNext ∧
      3 ≠ (sewing .run true).sw.feedNext) :=
  ⟨fun _ _ => ⟨serves rfl _ _, serves rfl _ _⟩, by decide +kernel, by decide +kernel,
    ⟨(sewing .run true).setSw { (sewing .run true).sw with headNext := 3, feedNext := 3 }, by decide +kernel⟩,
    ⟨(sewing .run true).setSw { (sewing .run true).sw with headNext := 3, feedNext := 3, leadLimit := 3 }, by decide +kernel⟩,
    by decide +kernel⟩

/-- A REPOSITION record taken by both drives, the other drive having moved or not. -/
def moving (headMoved fed : Bool) : State :=
  let s := sewing .halted true
  s.setSw { s.sw with
    ring := [{ stitch 1 true with kind := .reposition, movedHead := headMoved, movedFeed := fed }, stitch 2 false] }

theorem witness_ReportMovedRetiresReposition : ∀ other : Bool,
    (Serving (served .head (.reportMoved 0 1) (moving false other)) (sv .head (.reportMoved 0 1)) (.reportMoved 0 1) ∧
      (moving false other).rc.state ≠ .standby ∧ (sv .head (.reportMoved 0 1)).role = .head ∧
      (moving false other).sw.ring =
        { stitch 1 true with kind := .reposition, movedFeed := other } :: [stitch 2 false] ∧
      (moving false other).sw.waiting = [] ∧ ∀ x ∈ [stitch 2 false], x.serial ≠ 1) ∧
    (Serving (served .feed (.reportMoved 0 1) (moving other false)) (sv .feed (.reportMoved 0 1)) (.reportMoved 0 1) ∧
      (moving other false).rc.state ≠ .standby ∧ (sv .feed (.reportMoved 0 1)).role = .feed ∧
      (moving other false).sw.ring = { stitch 1 true with kind := .reposition, movedHead := other } :: [stitch 2 false]) ∧
    (moving false other).sw.find 3 = none ∧ ((moving false other).sw.find 2).map Record.kind = some .sew ∧ (3 : Word32) ≠ 0 := by
  intro other
  refine ⟨⟨serves rfl _ _, ?_⟩, ⟨serves rfl _ _, ?_⟩, ?_⟩ <;> revert other <;> decide +kernel

def unheaded : State := calm.setSt { calm.st with working := { settings with roles := [⟨0, .supervisor⟩, ⟨3, .feed⟩] } }

/-- Two orders queued, the second one's slot with reverse feed or not. -/
def starting (reverse : Bool) (yRev : Nat) : State :=
  let s := calm.setQueue [{ order with length := 100 }, { order with tag := 42, slot := 3 }]
  let s := s.setPl { s.pl with table := s.pl.table.set 3 (.closed { zigzag with reverse := reverse }) }
  s.setSt { s.st with working := { settings with yRev := yRev } }

theorem starting_reverse (reverse : Bool) (yRev : Nat) (h : yRev ≠ 0) : ReverseFeedServed (starting reverse yRev) := .inl h

theorem witness_StartBeginsRun :
    (∀ s : State, s.ready = true → Serving (served .supervisor (.start 0) s) (sv .supervisor (.start 0)) (.start 0)) ∧
    ((starting true 1).ready = true ∧ (starting true 1).rc.state = .standby ∧
      (starting true 1).queue = { order with length := 100 } :: [{ order with tag := 42, slot := 3 }] ∧
      (starting true 1).gh.broken = 0 ∧ holdsRole (starting true 1).st.working.roles .head = true ∧
      holdsRole (starting true 1).st.working.roles .feed = true ∧ (starting true 1).rc.causes = 0 ∧
      (starting true 1).rc.holdSeen = false ∧ tableEntry (starting true 1).pl.table 2 = some (.closed zigzag) ∧
      (starting true 1).sw.ring = [] ∧ 1 ≤ (starting true 1).st.working.primeDepth) ∧
    ReverseFeedServed (starting true 1) ∧ ReverseFeedServed (starting false 0) ∧
    ((starting true 0).st.working.yRev = 0 ∧ tableEntry (starting true 0).pl.table 3 = some (.closed { zigzag with reverse := true }) ∧
      (starting true 0).queue = [{ order with length := 100 }] ++ { order with tag := 42, slot := 3 } :: []) ∧
    (∀ r, (inState r).ready = true ∧ (inState r).rc.state = r) ∧ calm.queue = [] ∧
    ((starting true 1).setGh { calm.gh with broken := 1 }).gh.broken ≠ 0 ∧ holdsRole unheaded.st.working.roles .head = false ∧
    ((starting true 1).setRc { calm.rc with causes := 1 }).rc.causes ≠ 0 ∧
    ((starting true 1).setRc { calm.rc with holdSeen := true }).rc.holdSeen = true := by
  refine ⟨fun s h => serves h _ _, by decide +kernel, starting_reverse _ _ (by decide), .inr ?_, by decide +kernel,
    fun r => ⟨rfl, rfl⟩, by decide +kernel⟩
  intro o ho info h
  simp only [starting, List.mem_cons, List.not_mem_nil, or_false, setSt_queue, setPl_queue, setQueue_queue] at ho
  rcases ho with rfl | rfl <;> cases h <;> rfl

theorem witness_StopHaltsAtOnce (r : RunState) :
    Serving (served .supervisor (.stop 0) (inState r)) (sv .supervisor (.stop 0)) (.stop 0) ∧
      (served .supervisor (.stop 0) (inState r)).rc.state = r := served_meets r _ _

theorem witness_EndRunSetsFlag (r : RunState) :
    Serving (served .supervisor (.endRun 0) (inState r)) (sv .supervisor (.endRun 0)) (.endRun 0) ∧
      (served .supervisor (.endRun 0) (inState r)).rc.state = r := served_meets r _ _

/-- In the settle, with a prime depth above or below the two records of the window, the expander in a state. -/
def resuming (depth : Nat) (ring : List Record) (x : ExpanderState) : State :=
  let s := settling.setSw { (sewing .halted true).sw with ring := ring }
  (s.setSt { s.st with working := { settings with primeDepth := depth } }).setSx { expanding.sx with hand := [], state := x }

theorem witness_ResumeTakesSettle :
    (∀ s : State, s.ready = true →
      Serving (served .supervisor (.resume 0) s) (sv .supervisor (.resume 0)) (.resume 0)) ∧
    (∃ s : State, s.ready = true ∧ s.rc.state = .halted ∧ s.rc.causes = 0 ∧ ∀ r ∈ s.sw.ring, r.kind ≠ .reposition) ∧
    (∃ s : State, s.ready = true ∧ s.rc.state = .halted ∧ s.rc.causes ≠ 0) ∧
    (∃ s : State, s.ready = true ∧ s.rc.state = .halted ∧ s.rc.causes = 0 ∧
      (s.sw.ring.head?.map Record.kind) = some .reposition) ∧
    (∃ s : State, s.ready = true ∧ s.rc.state ≠ .halted) ∧
    (∀ (seen : Bool) (causes : Word16), (settling.setRc { settling.rc with holdSeen := seen, causes := causes }).ready = true ∧
      (settling.setRc { settling.rc with holdSeen := seen, causes := causes }).lp.service =
        some ⟨.resume 0, 0, .supervisor, .settle⟩ ∧
      (settling.setRc { settling.rc with holdSeen := seen, causes := causes }).rc.state = .halted) ∧
    (∀ depth ∈ [2, 3], ∀ ring ∈ [[stitch 1 true, stitch 2 false], []],
      ∀ x ∈ [ExpanderState.expanding, .holding .queueEmpty, .holding .endRequested],
        (resuming depth ring x).ready = true ∧
        (resuming depth ring x).lp.service = some ⟨.resume 0, 0, .supervisor, .settle⟩ ∧
        (resuming depth ring x).rc.state = .halted ∧ (resuming depth ring x).rc.holdSeen = false ∧
        (resuming depth ring x).rc.causes = 0 ∧ (resuming depth ring x).sw.ring = ring ∧
        (resuming depth ring x).sx.state = x ∧ (resuming depth ring x).st.working.primeDepth = depth) ∧
    ∃ i, ((resuming 3 [] .expanding).setQueue [order]).plan = .need i :=
  ⟨fun _ h => serves h _ _, ⟨sewing .halted true, by decide +kernel⟩,
    ⟨(inState .halted).setRc { (inState .halted).rc with causes := 0x0100 }, by decide +kernel⟩,
    ⟨moving false false, by decide +kernel⟩, ⟨calm, by decide +kernel⟩, fun _ _ => ⟨rfl, rfl, rfl⟩,
    by decide +kernel, ⟨0, by decide +kernel⟩⟩

/-- Halted with a copy of an order begun, its limit and the number of general places held as given. -/
def begun (limit places : Nat) : State :=
  let s := (sewing .halted true).setQueue [{ order with copyLimit := limit, pendingLate := [2] }]
  (s.setRc { s.rc with openCopy := some (41, 1) }).setLp
    { s.lp with general := List.replicate places ⟨0, .answer, 0, [], 3, 0, .none⟩ }

theorem witness_AbortGivesUpRun :
    (∀ r : RunState, Serving (served .supervisor (.abort 0) (inState r)) (sv .supervisor (.abort 0)) (.abort 0) ∧
      (served .supervisor (.abort 0) (inState r)).rc.state = r ∧ (inState r).rc.openCopy = none) ∧
    ∀ limit ∈ [1, 2], ∀ places ∈ [3, 4], (begun limit places).ready = true ∧ (begun limit places).rc.state = .halted ∧
      (begun limit places).rc.openCopy = some (41, 1) ∧
      findOrder (begun limit places).queue 41 = some { order with copyLimit := limit, pendingLate := [2] } ∧
      (served .supervisor (.abort 0) (begun limit places)).lp.placeFree = decide (places = 3) :=
  ⟨fun _ => ⟨serves rfl _ _, rfl, rfl⟩, by decide +kernel⟩

theorem witness_ClearCausesRemovesNamed (r : RunState) :
    Serving (served .supervisor (.clearCauses 0 0xFFFF) (inState r)) (sv .supervisor (.clearCauses 0 0xFFFF))
      (.clearCauses 0 0xFFFF) := serves rfl _ _

theorem witness_GroupSetsChange : (∀ c : Instr, Serving (served .supervisor c calm) (sv .supervisor c) c) ∧
    (∀ r groups, Serving (served .thread (.reportBreak 0 groups) (inState r)) (sv .thread (.reportBreak 0 groups))
      (.reportBreak 0 groups)) ∧
    (0 : Word32) = 0 ∧ (0x80000000 : Word32) ≠ 0 := ⟨fun _ => serves rfl _ _, fun _ _ => serves rfl _ _, rfl, by decide⟩

/-- Halted with an entry to rewind and a checkpoint, the next record's segment in hand or not. -/
def rolling (c : Context) : State :=
  let s := rewindable.setPl expanding.pl
  let s := s.setWt { s.wt with reservations := [⟨41, 1, 1320, 9⟩] }
  s.setSx { expanding.sx with checkpoint := some c, context := { c with web := 7 } }

theorem witness_BackstitchPlacesReplay :
    (∀ n : Byte, Serving (served .supervisor (.backstitch 0 n) rewindable) (sv .supervisor (.backstitch 0 n))
      (.backstitch 0 n) ∧ Serving (served .supervisor (.backstitch 0 n) (inState .halted)) (sv .supervisor (.backstitch 0 n))
      (.backstitch 0 n) ∧ Serving (served .supervisor (.backstitch 0 n) calm) (sv .supervisor (.backstitch 0 n))
      (.backstitch 0 n)) ∧
    (rewindable.rc.state = .halted ∧ (255 : Byte) ≠ 0 ∧ 1 ≤ rewindable.gh.rewindable ∧
      rewindable.gh.rewindable ≤ rewindable.gh.history.length) ∧
    calm.rc.state ≠ .halted ∧ ((inState .halted).rc.state = .halted ∧ (inState .halted).gh.rewindable = 0) ∧
    (∀ c ∈ [expanding.sx.context, closing.sx.context], (rolling c).ready = true ∧ (rolling c).rc.state = .halted ∧
      1 ≤ (rolling c).gh.rewindable ∧ (rolling c).gh.rewindable ≤ (rolling c).gh.history.length ∧
      (rolling c).sx.checkpoint = some c) ∧
    ((rolling expanding.sx.context).setSx
      { (rolling expanding.sx.context).sx with context := expanding.sx.context, hand := [], state := .expanding }).plan = .need 0 ∧
    (let s := rolling closing.sx.context
     let t := asked .supervisor (.backstitch 0 1) s
     makes (s.setSx { s.sx with context := closing.sx.context, hand := [], state := .expanding }).plan true true = true ∧
      t.sw.ring.length < 16 ∧ t.sw.waiting = [] ∧ t.wt.cuts.length + t.wt.reservations.length < 8 ∧
      t.sx.context = closing.sx.context ∧ t.sx.state = .expanding) :=
  ⟨fun _ => ⟨serves rfl _ _, serves rfl _ _, serves rfl _ _⟩, by decide +kernel, by decide +kernel, by decide +kernel,
    by decide +kernel, by decide +kernel, by decide +kernel⟩

theorem witness_CutDoneRemovesOldest :
    (∀ tag copy, Serving (served .cutter (.cutDone 0 tag copy) cutting) (sv .cutter (.cutDone 0 tag copy))
      (.cutDone 0 tag copy)) ∧
    (∃ e rest, cutting.wt.cuts = e :: rest ∧ e.tag = 41 ∧ e.copy = (1 : Byte).toNat ∧
      ∃ x ∈ rest, x.tag = 41 ∧ x.copy = (2 : Byte).toNat ∧ e.copy ≠ (2 : Byte).toNat) ∧
    ∀ x ∈ cutting.wt.cuts, x.tag ≠ 41 ∨ x.copy ≠ (3 : Byte).toNat :=
  ⟨fun _ _ => serves rfl _ _,
    ⟨⟨41, 1, 1320, 0, 2, 0, false⟩, [⟨41, 2, 1660, 0, 0, 0, false⟩], by decide +kernel⟩, by decide +kernel⟩

def zoned (n : Nat) : State := (inState .run).setWt { calm.wt with zones := List.replicate n ⟨5000, 5300⟩ }

theorem witness_SpliceIsReported :
    (∀ n web, Serving (served .feed (.reportSplice 0 web) (zoned n)) (sv .feed (.reportSplice 0 web)) (.reportSplice 0 web)) ∧
    (Serving (served .feed (.reportSplice 0 0) calm) (sv .feed (.reportSplice 0 0)) (.reportSplice 0 0) ∧
      calm.rc.state = .standby) ∧
    ((zoned 3).rc.state ≠ .standby ∧ (zoned 3).wt.zones.length < 4 ∧ (zoned 3).wt.web = 0 ∧ (zoned 3).st.working.spliceHalf = 150 ∧
      ((0 : Word32) - (151 - 150)).toInt < 0 ∧ ¬ ((0 : Word32) - (150 - 150)).toInt < 0 ∧
      ((0 : Word32) - (0x80000096 - 150)).toInt < 0) ∧
    4 ≤ (zoned 4).wt.zones.length ∧
    (∃ e behind, cutting.wt.cuts = [] ++ e :: behind ∧ e.tag = 41 ∧ e.copy = 1 ∧ ∀ x ∈ behind, x.tag ≠ 41 ∨ x.copy ≠ 1) ∧
    (∀ x ∈ cutting.wt.cuts, x.tag ≠ 41 ∨ x.copy ≠ 3) ∧ order.copiesEnded + 1 = 1 ∧ order.copiesEnded + 1 < 2 :=
  ⟨fun _ _ => serves rfl _ _, ⟨serves rfl _ _, rfl⟩, by decide +kernel, by decide +kernel,
    ⟨⟨41, 1, 1320, 0, 2, 0, false⟩, [⟨41, 2, 1660, 0, 0, 0, false⟩], by decide +kernel⟩, by decide +kernel, by decide, by decide⟩

theorem witness_SetSettingStores :
    (∀ c : Instr, Serving (served .supervisor c calm) (sv .supervisor c) c ∧ calm.rc.state = .standby ∧
      Serving (served .supervisor c (inState .run)) (sv .supervisor c) c ∧ (inState .run).rc.state ≠ .standby) ∧
    (settingWidth 0x01 = some [(30 : Byte)].length ∧ ¬ 30 < natOfOctets [30] ∧ 30 < natOfOctets [31] ∧
      settingWidth 0x03 = some [(1 : Byte)].length ∧ ¬ 1 < natOfOctets [1] ∧ 1 < natOfOctets [2] ∧
      settingWidth 0x12 = some (List.replicate 4 (255 : Byte)).length) ∧
    settingWidth 0x13 = none ∧ settingWidth 0 = none ∧ ([] : List Byte).length < 1 ∧ 4 < (List.replicate 5 (0 : Byte)).length :=
  ⟨fun _ => ⟨serves rfl _ _, rfl, serves rfl _ _, by decide +kernel⟩, by decide +kernel⟩

/-- The role table filled up to a number of entries, with HEAD at node 2 and OBSERVERs from node 10 on. -/
def tabled (n : Nat) : State :=
  calm.setSt { calm.st with working := { settings with
    roles := ⟨0, .supervisor⟩ :: ⟨2, .head⟩ :: (List.range (n - 2)).map fun i => ⟨10 + i, .observer⟩ } }

theorem witness_SetRoleKeepsTableSound :
    (∃ s : State, Serving (served .supervisor (.setRole 0 30 6) s) (sv .supervisor (.setRole 0 30 6)) (.setRole 0 30 6) ∧
      s.rc.state = .standby ∧ roleTableOk s.st.working.roles = true ∧ s.st.working.roles.length ≤ 8 ∧
      roleOfNode s.st.working.roles (sv .supervisor (.setRole 0 30 6)).node.toNat = some .supervisor ∧
      (30 : Byte).toNat ≤ 30 ∧ (30 : Byte).toNat ≠ (sv .supervisor (.setRole 0 30 6)).node.toNat ∧
      s.st.working.roles.length < 8) ∧
    (Serving (served .supervisor (.setRole 0 30 6) (inState .run)) (sv .supervisor (.setRole 0 30 6)) (.setRole 0 30 6) ∧
      (inState .run).rc.state ≠ .standby) ∧
    (∀ n node role, Serving (served .supervisor (.setRole 0 node role) (tabled n)) (sv .supervisor (.setRole 0 node role))
      (.setRole 0 node role)) ∧
    (∀ n ∈ [7, 8], (tabled n).rc.state = .standby ∧ (tabled n).st.working.roles.length = n ∧
      roleTableOk (tabled n).st.working.roles = true) ∧
    (30 < (31 : Byte).toNat ∧ 6 < (7 : Byte).toNat ∧ (30 : Byte).toNat ≤ 30 ∧ (6 : Byte).toNat ≤ 6) ∧
    ((∃ e ∈ (tabled 8).st.working.roles, e.node ≠ (3 : Byte).toNat ∧ e.role.code = 2) ∧
      ¬ ∃ e ∈ (tabled 8).st.working.roles, e.node ≠ (2 : Byte).toNat ∧ e.role.code = 2) ∧
    ((∀ e ∈ (tabled 8).st.working.roles, e.node ≠ (30 : Byte).toNat) ∧ 8 ≤ (tabled 8).st.working.roles.length ∧
      (tabled 7).st.working.roles.length < 8) ∧
    ∃ behind, (tabled 8).st.working.roles = [⟨0, .supervisor⟩] ++ ⟨2, .head⟩ :: behind ∧
      ∀ x ∈ [⟨0, .supervisor⟩] ++ behind, x.node ≠ (2 : Byte).toNat :=
  ⟨⟨calm, serves rfl _ _, by decide +kernel⟩, ⟨serves rfl _ _, by decide +kernel⟩, fun _ _ _ => serves rfl _ _,
    by decide +kernel, by decide +kernel, by decide +kernel, by decide +kernel,
    ⟨(List.range 6).map fun i => ⟨10 + i, .observer⟩, by decide +kernel⟩⟩

theorem witness_ResetPartIsAccepted :
    (∀ s : State, s.ready = true → Serving (served .supervisor (.resetPart 0) s) (sv .supervisor (.resetPart 0)) (.resetPart 0)) ∧
    (calm.ready = true ∧ calm.rc.state = .standby ∧ calm.pl.op = none) ∧
    ((waiting true).ready = true ∧ (waiting true).rc.state = .standby ∧ (waiting true).pl.op.isSome = true) ∧
    ((inState .run).ready = true ∧ (inState .run).rc.state ≠ .standby) :=
  ⟨fun _ h => serves h _ _, by decide +kernel, by decide +kernel, by decide +kernel⟩

theorem witness_HandOnPassesRoleCheck : ∀ src ∈ [(30 : NodeId), 4, 0], ∀ code ∈ [(0x31 : Byte), 0x08, 0x66], ∀ n ∈ [0, 1],
    ∃ s : State, s.ready = true ∧ s.lp.inbound = ⟨src, code, List.replicate n 0⟩ :: [] ∧ s.lp.service = none ∧
      s.lp.resetPart = .none ∧ s.lp.general.length < 5 ∧
      roleOfNode s.st.working.roles src.toNat = (if src = 30 then none else if src = 4 then some .thread else some .supervisor) ∧
      ((permittedRoles code).isNone ↔ code = 0x08) ∧ (permittedRoles 0x31 = some [.supervisor]) ∧
      ((decodeRequest ⟨src, code, List.replicate n 0⟩).isSome = true ↔ code ≠ 0x08 ∧ n = 0) := by
  intro src h code hc n hn
  refine ⟨calm.setLp { calm.lp with
    inbound := [⟨src, code, List.replicate n 0⟩]
    general := List.replicate 4 ⟨0, .answer, 0, [], 3, 0, .none⟩ }, ?_⟩
  simp only [List.mem_cons, List.not_mem_nil, or_false] at h hc hn
  rcases h with rfl | rfl | rfl <;> rcases hc with rfl | rfl | rfl <;> rcases hn with rfl | rfl <;> decide +kernel

theorem witness_BitEngineMoves :
    (idle.ready = true ∧ idle.lp.engine = .idle ∧ startMarkOk idle.lp.cellTime ⟨26999, some 40000⟩ = false ∧
      startMarkOk idle.lp.cellTime ⟨27000, some 42500⟩ = true ∧ idle.lp.filter = true ∧ 2000 ≤ 26999) ∧
    (calm.ready = true ∧ calm.lp.engine = .busy ∧ 600 * (10 * calm.lp.cellTime) ≤ 60000) ∧
    (∃ (s : State) (f : OutFrame), s.ready = true ∧ s.lp.engine = .idle ∧ s.lp.ownWait = false ∧ s.lp.sending = none ∧
      s.lp.statePlace = none ∧ s.lp.general = [⟨0, .answer, 0x11, [], 3, 0, .none⟩] ++ f :: [⟨4, .answer, 0x11, [], 2, 0, .none⟩] ∧
      (∀ x ∈ [(⟨0, .answer, 0x11, [], 3, 0, .none⟩ : OutFrame)], f.priority < x.priority) ∧
      ∀ x ∈ [(⟨4, .answer, 0x11, [], 2, 0, .none⟩ : OutFrame)], f.priority ≤ x.priority) ∧
    (calm.ready = true ∧ calm.lp.engine ≠ .idle) ∧ (idle.lp.statePlace = none ∧ idle.lp.general = []) ∧
    ∃ (s : State) (f : OutFrame), s.ready = true ∧ s.lp.engine = .idle ∧ s.lp.ownWait = false ∧ s.lp.sending = none ∧
      s.lp.statePlace = some f :=
  ⟨by decide +kernel, by decide +kernel,
    ⟨idle.setLp { idle.lp with general := [⟨0, .answer, 0x11, [], 3, 0, .none⟩, ⟨31, .announce, 0x81, [], 2, 0, .none⟩,
      ⟨4, .answer, 0x11, [], 2, 0, .none⟩] }, ⟨31, .announce, 0x81, [], 2, 0, .none⟩, by decide +kernel⟩,
    by decide +kernel, by decide +kernel,
    ⟨idle.setLp { idle.lp with statePlace := some (stateFrame calm .startUp) }, stateFrame calm .startUp, by decide +kernel⟩⟩

/-- The STATE of start-up in flight, as node 1 sends it, replaced meanwhile or not. -/
def sendingState (replaced : Bool) (aborts : Nat) : State :=
  let f : OutFrame := { stateFrame calm .startUp with aborts := aborts }
  calm.setLp { calm.lp with
    engine := .sending
    statePlace := some f
    sending := some ⟨.state, f.octets 1, true, replaced⟩ }

/-- The line as node 1 leaves it when it sends octets, one cell at a place changed. -/
def lineWith (octets : List (Byte × Bool)) (changed : Nat) (c : LineCell) : Wave :=
  let w := driveFrame 10 octets
  ⟨w.mark, w.cells.set changed c⟩

theorem witness_AttemptsEnd :
    (∃ x f, sending.ready = true ∧ sending.lp.sending = some x ∧ x.place = .general 0 ∧ sending.lp.general[0]? = some f ∧
      sending.lp.attemptEnd x (heard true) = .delivered ∧ sending.lp.attemptEnd x (heard false) = .refused ∧
      sending.lp.attemptEnd x (driveFrame 10 [(0x00, false), (0xF8, false), (0x80, false)]) = .lost ∧
      sending.lp.attemptEnd x (driveFrame 10 [(0x61, false), (0x00, false), (0x11, false)]) = .collision ∧
      sending.lp.attemptEnd x (lineWith [(0x61, false), (0x02, true), (0x11, true)] 12 ⟨1000, some 10000⟩) = .errorSeen ∧
      f.aborts < 2 ∧
      ∀ mark ∈ [33000, 33001], sending.lp.attemptEnd x { rival with mark := ⟨mark, some 40000⟩ } = .lost ∧
        seenLine sending.lp.filter { rival with mark := ⟨mark, some 40000⟩ } = ⟨mark, some 40000⟩ :: rival.cells ∧
        startMarkOk sending.lp.cellTime ⟨mark, some 40000⟩ = decide (mark = 33000)) ∧
    ∀ replaced : Bool, ∀ aborts ∈ [1, 2], ∃ x f, (sendingState replaced aborts).ready = true ∧
      (sendingState replaced aborts).lp.sending = some x ∧ x.place = .state ∧ x.replaced = replaced ∧
      (sendingState replaced aborts).lp.statePlace = some f ∧ f.aborts = aborts ∧
      (sendingState replaced aborts).lp.attemptEnd x (driveFrame 10 (x.octets.map fun o => (o, false))) = .delivered ∧
      (sendingState replaced aborts).lp.attemptEnd x
        (lineWith (x.octets.map fun o => (o, false)) 14 ⟨1000, some 10000⟩) = .errorSeen := by
  refine ⟨⟨⟨.general 0, [0x61, 0x02, 0x11], false, false⟩, ⟨0, .answer, 0x11, [], 3, 0, .none⟩, by decide +kernel⟩, ?_⟩
  intro replaced aborts h
  refine ⟨⟨.state, OutFrame.octets { stateFrame calm .startUp with aborts := aborts } 1, true, replaced⟩,
    { stateFrame calm .startUp with aborts := aborts }, ?_⟩
  simp only [List.mem_cons, List.not_mem_nil, or_false] at h
  rcases h with rfl | rfl <;> revert replaced <;> decide +kernel

end Sys2Proof.Tests
end

section
/-! SUPPORT. The array: which commands can change it, and that every step keeps its canonical form. -/

namespace Sys2Proof.Machine

/-! ### Operations that leave the array -/

@[simp] theorem holdSeen_pl (asserted : Bool) (s : State) : (holdSeen asserted s).pl = s.pl := by
  unfold holdSeen; dsimp only; (repeat' split) <;> simp
@[simp] theorem enterHalted_pl (r : StateReason) (s : State) : (enterHalted r s).pl = s.pl := rfl
@[simp] theorem markLate_pl (s : State) : (markLate s).pl = s.pl := by
  unfold markLate; (repeat' split) <;> simp
@[simp] theorem spliceOverflow_pl (s : State) : (spliceOverflow s).pl = s.pl := by
  unfold spliceOverflow; split <;> simp
@[simp] theorem applyTravel_pl (s : State) : (applyTravel s).pl = s.pl := rfl
@[simp] theorem storeSetting_pl (sv : Service) (code : Byte) (width v : Nat) (s : State) :
    (storeSetting sv code width v s).pl = s.pl := by
  unfold storeSetting; dsimp only; rw [answerThen_pl]; split <;> simp
@[simp] theorem take_pl (d : Drive) (serial : Word32) (sv : Service) (s : State) : (take d serial sv s).pl = s.pl := by
  unfold take; (repeat' split) <;> simp
@[simp] theorem abortCopy_pl (tag : Word16) (copy : Nat) (s : State) : (abortCopy tag copy s).pl = s.pl := by
  unfold abortCopy; split <;> simp
@[simp] theorem orderJoined_pl (o : Order) (s : State) : (orderJoined o s).pl = s.pl := by
  unfold orderJoined; split <;> simp

@[simp] theorem leaveOrder_array (o : Option Order) (s : State) : (leaveOrder o s).pl.array = s.pl.array := by
  unfold leaveOrder; (repeat' split) <;> simp
@[simp] theorem cancelRemove_array (o : Order) (s : State) : (cancelRemove o s).pl.array = s.pl.array := by
  unfold cancelRemove; dsimp only; rw [settle_pl_array]; split <;> simp
@[simp] theorem startRun_array (s : State) : (startRun s).pl.array = s.pl.array := by simp [startRun]
@[simp] theorem endRequested_array (s : State) : (endRequested s).pl.array = s.pl.array := by
  unfold endRequested; dsimp only; rw [settle_pl_array]; split <;> simp
@[simp] theorem resumeSettled_array (sv : Service) (s : State) : (resumeSettled sv s).pl.array = s.pl.array := by
  unfold resumeSettled; (repeat' split) <;> simp
@[simp] theorem abortRun_array (s : State) : (abortRun s).pl.array = s.pl.array := by
  unfold abortRun; dsimp only; split <;> simp
@[simp] theorem backstitch_array (r : Record) (rs : List Record) (s : State) : (backstitch r rs s).pl.array = s.pl.array := by
  simp [backstitch]
@[simp] theorem needleUp_array (s : State) : (needleUp s).pl.array = s.pl.array := by
  unfold needleUp needleUpRun needleUpHalting; dsimp only; (repeat' split) <;> simp

@[simp] theorem acceptOp_array (sv : Service) (work : OpWork) (point : OpPoint) (s : State) :
    (acceptOp sv work point s).pl.array = s.pl.array := by simp [acceptOp]
@[simp] theorem commitDecision_array (sv : Service) (slot page : Nat) (written : Bool) (s : State) :
    (commitDecision sv slot page written s).pl.array = s.pl.array := by
  unfold commitDecision; (repeat' split) <;> simp

/-! ### Finished reads leave the array -/

@[simp] theorem closingRead_array (s : State) : (closingRead s).pl.array = s.pl.array := by
  unfold closingRead; dsimp only; (repeat' split) <;> rfl
@[simp] theorem writtenRead_array (slot page : Nat) (s : State) : (writtenRead slot page s).pl.array = s.pl.array := by
  unfold writtenRead; split <;> simp
@[simp] theorem libraryRead_array (slot page offset count : Nat) (s : State) :
    (libraryRead slot page offset count s).pl.array = s.pl.array := by
  unfold libraryRead; split <;> simp
@[simp] theorem reloadRead_array (s : State) : (reloadRead s).pl.array = s.pl.array := by
  unfold reloadRead; (repeat' split) <;> simp [reloadOutcome]
@[simp] theorem expanderRead_array (slot index : Nat) (live : Bool) (s : State) :
    (expanderRead slot index live s).pl.array = s.pl.array := by
  unfold expanderRead; split <;> simp
@[simp] theorem setupLoad_pl (s : State) : (setupLoad s).pl = s.pl := by
  unfold setupLoad followSettings; dsimp only; split <;> simp
@[simp] theorem scanNext_array (r : ScanRead) (s : State) : (scanNext r s).pl.array = s.pl.array := rfl
@[simp] theorem classified_array (found : List SlotEntry) (e : SlotEntry) (s : State) :
    (classified found e s).pl.array = s.pl.array := by
  unfold classified reachReady; dsimp only; split <;> simp
@[simp] theorem scanWalk_array (found : List SlotEntry) (slot : Nat) (r : WalkResult) (s : State) :
    (scanWalk found slot r s).pl.array = s.pl.array := by
  unfold scanWalk; split <;> simp
@[simp] theorem scanRead_array (found : List SlotEntry) (r : ScanRead) (s : State) :
    (scanRead found r s).pl.array = s.pl.array := by
  unfold scanRead; dsimp only; (repeat' split) <;> simp
@[simp] theorem deliver_array (r : ReadFor) (s : State) : (deliver r s).pl.array = s.pl.array := by
  cases r with
  | scan r => unfold deliver; dsimp only; split <;> simp
  | _ => simp [deliver]

/-! ### The steps of an operation leave the array -/

@[simp] theorem setEntry_array (l : Library) (slot : Nat) (e : SlotEntry) : (l.setEntry slot e).array = l.array := rfl
@[simp] theorem finish_array (l : Library) (w : OpWork) (r : OpResult) : (l.finish w r).array = l.array := rfl
@[simp] theorem proceed_array (l : Library) (o : Op) (step : ArrayStep) : (l.proceed o step).array = l.array := rfl
@[simp] theorem fail_array (l : Library) (w : OpWork) : (l.fail w).array = l.array := by
  unfold Library.fail; dsimp only; split <;> rfl
@[simp] theorem nextStep_array (l : Library) (o : Op) (step : ArrayStep) : (l.nextStep o step).array = l.array := by
  unfold Library.nextStep; dsimp only; split <;> rfl
@[simp] theorem closeDone_array (l : Library) (w : OpWork) : (l.closeDone w).array = l.array := by
  unfold Library.closeDone; split <;> rfl
theorem writeMark_array {write done : Library → Library} (l : Library) (w : OpWork) (target : Byte)
    (hw : (write l).array = l.array) (hd : (done l).array = l.array) : (l.writeMark w target write done).array = l.array := by
  unfold Library.writeMark; (repeat' split) <;> assumption
@[simp] theorem voidAndFail_array (l : Library) (o : Op) : (l.voidAndFail o).array = l.array :=
  writeMark_array l _ _ (nextStep_array ..) (fail_array ..)
@[simp] theorem stepEnded_array (l : Library) (o : Op) (step : ArrayStep) (good expired : Bool) :
    (l.stepEnded o step good expired).array = l.array := by
  cases step with
  | summaryFields =>
    unfold Library.stepEnded; dsimp only; split
    · exact writeMark_array l _ _ (proceed_array ..) (closeDone_array ..)
    · simp
  | _ => unfold Library.stepEnded; dsimp only; (repeat' split) <;> simp

/-! ### Which commands can change the array -/

/-- The commands by which the array reports a step of its own, or by which one is cut short. -/
def changesArray : Instr → Bool
  | .resetnAssert _ | .powerOff _ | .programStepComplete _ _ | .eraseComplete _ | .boundExpiry _ => true
  | _ => false

theorem whenReady_array {s : State} {f : State → State} (hf : (f s).pl.array = s.pl.array) :
    (whenReady s f).pl.array = s.pl.array :=
  whenReady_keeps (P := fun t => t.pl.array = s.pl.array) rfl fun _ => hf

theorem whenPowered_array {s : State} {f : State → State} (hf : (f s).pl.array = s.pl.array) :
    (whenPowered s f).pl.array = s.pl.array :=
  whenPowered_keeps (P := fun t => t.pl.array = s.pl.array) rfl fun _ => hf

/-- A request leaves the array when its owner's step does. -/
theorem takeRequest_array {c : Instr} {own : Service → State → State} {s : State}
    (hown : ∀ sv s', (own sv s').pl.array = s'.pl.array) : (takeRequest c own s).pl.array = s.pl.array :=
  takeRequest_keeps (P := fun t => t.pl.array = s.pl.array) rfl (fun _ _ _ => by simp)
    fun sv s' h _ => (hown sv s').trans h

/-- No other command reaches the array. -/
theorem exec_array {c : Instr} (h : changesArray c = false) (s : State) :
    Leaves (exec c s) fun t => t.pl.array = s.pl.array := by
  cases c with
  | resetnAssert | powerOff | programStepComplete | eraseComplete | boundExpiry => cases h
  | powerOn => exact ⟨_, rfl, by split <;> rfl⟩
  | resetnRelease => exact ⟨_, rfl, by split <;> rfl⟩
  | needleUp us => exact ⟨_, rfl, whenReady_array (by split <;> simp)⟩
  | holdSeenChange asserted us => exact ⟨_, rfl, whenReady_array (by split <;> simp)⟩
  | stopSilenceExpiry => exact ⟨_, rfl, whenReady_array (by split <;> simp)⟩
  | resumeSettleEnd => exact ⟨_, rfl, whenReady_array (by split <;> simp)⟩
  | expansionEvent => exact ⟨_, rfl, whenReady_array (by (repeat' split) <;> simp)⟩
  | progressIntervalEnd => exact ⟨_, rfl, whenPowered_array (by (repeat' split) <;> simp)⟩
  | readComplete => exact ⟨_, rfl, whenPowered_array (by split <;> simp)⟩
  | inboundFrame | frameNotForPart | lineIdle | frameStart | frameDelivered | arbitrationLost | errorAbort =>
    exact ⟨_, rfl, whenReady_array rfl⟩
  | notAStartMark m => exact ⟨_, rfl, whenReady_array (by split <;> rfl)⟩
  | frameHandOn => exact ⟨_, rfl, whenReady_array (by (repeat' split) <;> simp)⟩
  | resetPartApply => exact ⟨_, rfl, whenReady_array (by split <;> simp [State.partReset, Library.afterReset])⟩
  | reportMoved | reportBreak | reportSplice | backstitch | setSetting | setRole =>
    refine ⟨_, rfl, takeRequest_array fun _ _ => ?_⟩
    dsimp only
    (repeat' split) <;> simp
  | loadBuffer | clearBuffer | commitPage | eraseSlot | closeSlot | readLibrary | readOutcome | enqueue | cancel | readQueue
  | readOrder | takeHead | takeFeed | start | stop | endRun | resume | abort | clearCauses | reportStopped | readStatus
  | readCounters | clearCounters | reportMended | park | unpark | readHistory | cutQuery | cutDone | writeSetup
  | reloadSetup | resetPart | readSetting | readTable =>
    refine ⟨_, rfl, takeRequest_array fun _ _ => ?_⟩
    (repeat' split) <;> simp

/-! ### The canonical form -/

theorem whenPowered_canonical {s : State} {f : State → State} (h : MemoryCanonical s)
    (hf : MemoryCanonical (f s)) : MemoryCanonical (whenPowered s f) :=
  whenPowered_keeps h fun _ => hf

/-- A report of the array leaves what the step's end has of the array it is given. -/
theorem canonical_stepEnded (s : State) {l : Library} (o : Op) (step : ArrayStep) (good expired : Bool)
    (h : Memory.wf l.array = true) : MemoryCanonical (portNext (s.setPl (l.stepEnded o step good expired))) := by
  simpa [MemoryCanonical] using h

/-- Every command keeps the array's canonical form: the reports of the array and the resets by the laws of what they write, the
others because they do not reach it. -/
theorem exec_canonical (c : Instr) {s : State} (h : MemoryCanonical s) : Leaves (exec c s) MemoryCanonical := by
  cases hc : changesArray c with
  | false =>
    obtain ⟨t, ht, harray⟩ := exec_array hc s
    exact ⟨t, ht, by rw [MemoryCanonical, harray]; exact h⟩
  | true =>
    cases c with
    | resetnAssert left => exact ⟨_, rfl, wf_cutShort h left⟩
    | powerOff left => exact ⟨_, rfl, wf_cutShort h left⟩
    | programStepComplete step failed =>
      refine ⟨_, rfl, whenPowered_canonical h ?_⟩
      split
      · split
        · exact canonical_stepEnded _ _ _ _ _ (wf_programCells _ _ h)
        · exact h
      · exact h
    | eraseComplete residue =>
      refine ⟨_, rfl, whenPowered_canonical h ?_⟩
      split
      · split
        · exact canonical_stepEnded _ _ _ _ _ (wf_eraseLeaves _ h _)
        · exact h
      · exact h
    | boundExpiry left =>
      refine ⟨_, rfl, whenPowered_canonical h ?_⟩
      split
      · exact canonical_stepEnded _ _ _ _ _ (wf_expired h left)
      · exact h
    | _ => cases hc

/-- Settles O9: a step idles, or executes its front command on a state with the same array. -/
theorem memoryStaysCanonical : Obligations.MemoryStaysCanonical := by
  intro s t h hstep
  unfold step at hstep
  split at hstep
  · cases hstep
    exact h
  · next c rest _ =>
    obtain ⟨u, hu, hcanon⟩ := exec_canonical c (s := s.setPending rest) h
    rw [hu] at hstep
    cases hstep
    exact hcanon

/-! ### Programming and erasing -/

/-- Settles O18, by what a byte reads after each of the two operations. -/
theorem arrayProgramsAndErases : Obligations.ArrayProgramsAndErases := by
  exact ⟨fun mem a x w => (arrayByte_arrayProgram mem a w x).trans (if_congr eq_comm rfl rfl), arrayByte_arrayErase⟩

end Sys2Proof.Machine
end

section
/-! SUPPORT. Validation: what each check of a header and of a segment comes to, and what a validation read of CLOSE SLOT leads
to. -/

namespace Sys2Proof.Machine

/-! ### The header -/

theorem walkHeader_count {segments : Nat} (stitch : Nat) (h : segments < 1 ∨ 508 < segments) :
    walkHeader segments stitch = .bad 65535 .count := if_pos h

theorem walkHeader_of_count {segments : Nat} (stitch : Nat) (h1 : 1 ≤ segments) (h2 : segments ≤ 508) :
    walkHeader segments stitch =
      if stitch < 10 ∨ 100 < stitch then .bad 65535 .badLength else .more ⟨segments, stitch, 0, 0, 0, 0, 0, 0, false⟩ :=
  if_neg (by simp only [Config.segmentCount]; omega)

/-! ### A segment, by its op -/

theorem walkSegment_badOp {w : Walk} {g : Segment} (h : g.op = none ∨ g.flags ≠ 0) :
    walkSegment w g = .bad w.index .badOp := by
  unfold walkSegment
  split
  · rfl
  · next op ho =>
    rw [if_pos (h.resolve_left (by simp [ho]))]

/-- END: its operands, its override, its place, and then the final checks of R13. -/
theorem walkSegment_end {w : Walk} {g : Segment} (hf : g.flags = 0) (ho : g.op = some .endOfBody) :
    walkSegment w g =
      if g.a ≠ 0 ∨ g.b ≠ 0 then .bad w.index .badOp
      else if g.override ≠ 0 then .bad w.index .badLength
      else if w.index + 1 ≠ w.segments then .bad w.index .noEnd
      else if w.x ≠ 0 then .bad w.index .netDx
      else if w.y ≤ 0 then .bad w.index .nonPositiveR
      else .valid w.info := by
  by_cases hi : w.index + 1 = w.segments
  · simp [walkSegment, Walk.pass, overrideOk, hf, ho, hi]
  · simp [walkSegment, overrideOk, hf, ho, hi]

/-- RUN and JUMP: the override, the position after the move, and whether a segment may follow. -/
theorem walkSegment_move {w : Walk} {g : Segment} {op : SegmentOp} (hf : g.flags = 0) (ho : g.op = some op)
    (hop : op = .run ∨ op = .jump) :
    walkSegment w g =
      if overrideOk op g.override = false then .bad w.index .badLength
      else if w.y + g.b < 0 then .bad w.index .belowOrigin
      else if w.index + 1 < w.segments then .more { w.move g with index := w.index + 1 }
      else .bad w.index .noEnd := by
  rcases hop with rfl | rfl <;> simp [walkSegment, Walk.pass, Walk.move, hf, ho]

/-- TACK and GROUPS: the override, the operands of a TACK, and whether a segment may follow. -/
theorem walkSegment_still {w : Walk} {g : Segment} {op : SegmentOp} (hf : g.flags = 0) (ho : g.op = some op)
    (hop : op = .tack ∨ op = .groups) :
    walkSegment w g =
      if g.override ≠ 0 then .bad w.index .badLength
      else if op = .tack ∧ tackOk g = false then .bad w.index .badLength
      else if w.index + 1 < w.segments then .more { w with index := w.index + 1 }
      else .bad w.index .noEnd := by
  rcases hop with rfl | rfl <;> simp [walkSegment, Walk.pass, overrideOk, hf, ho]

theorem overrideOk_run_iff (n : Nat) : overrideOk .run n = true ↔ n = 0 ∨ 10 ≤ n ∧ n ≤ 100 := by simp [overrideOk]

theorem overrideOk_jump_iff (n : Nat) : overrideOk .jump n = true ↔ n = 0 := by simp [overrideOk]

theorem tackOk_iff (g : Segment) : tackOk g = true ↔ (g.a = 2 ∨ g.a = 4 ∨ g.a = 6) ∧ 1 ≤ g.b ∧ g.b ≤ 20 := by
  simp [tackOk, and_assoc, or_assoc]

/-! ### Finished reads -/

/-- The state in which a finished read is delivered: nothing is in flight at the port. -/
def State.portFreed (s : State) : State := s.setPort { s.pl.port with inFlight := none }

/-- A finished read is delivered with the port free, and what follows at once comes about. -/
theorem exec_readComplete {s : State} {r : ReadFor} (hp : s.powered = true) (hr : s.pl.port.inFlight = some r) :
    exec .readComplete s = .next (settle (deliver r s.portFreed)) := by
  show Host.Outcome.next (whenPowered s _) = _
  rw [whenPowered_of hp, hr]
  rfl

/-! ### The validation reads of CLOSE SLOT -/

/-- What a validation read comes to. -/
def Validation.result (mem : List Host.Cell) (slot : Nat) : Validation → WalkResult
  | .header => walkHeader (headerSegments mem slot) (headerStitch mem slot)
  | .segment w => walkSegment w (readSegment mem (segmentAddress slot w.index))

/-- The Library Controller after a validation read of CLOSE SLOT. -/
def Library.validated (l : Library) (slot : Nat) (info : Option SlotInfo) (interval suspended : Bool) :
    WalkResult → Library
  | .more w => { l with
      op := some ⟨.close slot info, .validating (.segment w), interval, suspended⟩
      port := { l.port with closing := some .closing } }
  | .bad n reason => l.finish (.close slot info) (.invalid n reason)
  | .valid summary => { l with op := some ⟨.close slot (some summary), .stepping .summaryFields, false, false⟩ }

theorem closingRead_eq {s : State} {slot : Nat} {info : Option SlotInfo} {v : Validation} {interval suspended : Bool}
    (h : s.pl.op = some ⟨.close slot info, .validating v, interval, suspended⟩) :
    closingRead s = s.setPl (s.pl.validated slot info interval suspended (v.result s.pl.array slot)) := by
  unfold closingRead
  rw [h]
  cases v with
  | header =>
    dsimp only [Validation.result]
    generalize walkHeader _ _ = result
    cases result <;> rfl
  | segment w =>
    dsimp only [Validation.result]
    generalize walkSegment _ _ = result
    cases result <;> rfl

/-- Of the Library Controller, a validation read changes the operation in hand, the outcome record and the port alone. -/
theorem validated_keeps (l : Library) (slot : Nat) (info : Option SlotInfo) (interval suspended : Bool) (r : WalkResult) :
    (l.validated slot info interval suspended r).array = l.array ∧
      (l.validated slot info interval suspended r).table = l.table ∧
      (l.validated slot info interval suspended r).failFlag = l.failFlag := by
  cases r <;> exact ⟨rfl, rfl, rfl⟩

/-- A validation read of CLOSE SLOT, once what follows at once has come about: the next segment, the end INVALID, or the program
phase. -/
theorem readComplete_closing {s : State} {slot : Nat} {info : Option SlotInfo} {v : Validation} {interval suspended : Bool}
    (hp : s.powered = true) (hop : s.pl.op = some ⟨.close slot info, .validating v, interval, suspended⟩)
    (hr : s.pl.port.inFlight = some .closing) :
    Leaves (exec .readComplete s) fun t =>
      t.pl.array = s.pl.array ∧ t.pl.table = s.pl.table ∧ t.pl.failFlag = s.pl.failFlag ∧
      (∀ w, v.result s.pl.array slot = .more w → t.pl.outcome = s.pl.outcome ∧
        t.pl.op.map (fun o => (o.work, o.point)) = some (.close slot info, .validating (.segment w))) ∧
      (∀ n reason, v.result s.pl.array slot = .bad n reason → t.pl.op = none ∧
        t.pl.outcome = some ⟨.closeSlot, some slot, none, .invalid n reason⟩) ∧
      ∀ summary, v.result s.pl.array slot = .valid summary → t.pl.outcome = s.pl.outcome ∧
        t.pl.op.map (fun o => (o.work, o.point)) = some (.close slot (some summary), .stepping .summaryFields) := by
  refine ⟨_, exec_readComplete hp hr, ?_⟩
  have hread : deliver .closing s.portFreed =
      s.portFreed.setPl (s.portFreed.pl.validated slot info interval suspended (v.result s.pl.array slot)) :=
    closingRead_eq hop
  obtain ⟨harray, htable, hfail⟩ := validated_keeps s.portFreed.pl slot info interval suspended (v.result s.pl.array slot)
  beta_reduce
  rw [hread, settle_pl_array, settle_pl_table, settle_pl_failFlag, settle_pl_outcome, settle_op]
  refine ⟨harray, htable, hfail, fun w hw => ?_, fun n reason hb => ?_, fun summary hv => ?_⟩
  · rw [hw]; exact ⟨rfl, rfl⟩
  · rw [hb]; exact ⟨settle_op_none rfl, rfl⟩
  · rw [hv]; exact ⟨rfl, rfl⟩

/-! ### The obligation -/

/-- Settles O32, by the equation of a segment's checks for each kind of op. -/
theorem validationFollowsChecks : Obligations.ValidationFollowsChecks := by
  refine ⟨fun segments stitch => ⟨walkHeader_count stitch, fun h1 h2 hb => ?badStitch, fun h1 h2 h3 h4 => ?header⟩,
    fun w g => ⟨walkSegment_badOp, fun hf ho => ?ending, fun hf hop => ?move, fun hf hop => ?still⟩, ?closing⟩
  case badStitch => rw [walkHeader_of_count stitch h1 h2, if_pos hb]
  case header => rw [walkHeader_of_count stitch h1 h2, if_neg (by omega)]
  case ending =>
    rw [walkSegment_end hf ho]
    refine ⟨fun hab => if_pos hab, fun ha hb => ?_⟩
    rw [if_neg (by simp [ha, hb])]
    refine ⟨fun hl => if_pos hl, fun hl => ?_⟩
    rw [if_neg (by simp [hl])]
    refine ⟨fun hi => if_pos hi, fun hi => ?_⟩
    rw [if_neg (by simp [hi])]
    refine ⟨fun hx => if_pos hx, fun hx hy => ?_, fun hx hy => ?_⟩
    · rw [if_neg (by simp [hx]), if_pos hy]
    · rw [if_neg (by simp [hx]), if_neg (by omega)]; rfl
  case move =>
    obtain ⟨op, ho, hop'⟩ : ∃ op, g.op = some op ∧ (op = .run ∨ op = .jump) :=
      hop.elim (fun h => ⟨_, h, .inl rfl⟩) (fun h => ⟨_, h, .inr rfl⟩)
    rw [walkSegment_move hf ho hop', ho]
    refine ⟨fun hr hl => ?_, fun hj hl => ?_, fun hl => ?_⟩
    · cases hr
      rw [if_pos]
      rw [← Bool.not_eq_true, overrideOk_run_iff]
      omega
    · cases hj
      rw [if_pos]
      rw [← Bool.not_eq_true, overrideOk_jump_iff]
      exact hl
    · have hok : overrideOk op g.override = true := by
        rcases hop' with rfl | rfl
        · rw [overrideOk_run_iff]; exact hl.imp_right And.right
        · rw [overrideOk_jump_iff]; exact hl.resolve_right fun h => by cases h.1
      rw [if_neg (by simp [hok])]
      refine ⟨fun hy => if_pos hy, fun hy hi => ?_, fun hy hi => ?_⟩
      · rw [if_neg (by omega), if_neg (by omega)]
      · rw [if_neg (by omega), if_pos hi]; rfl
  case still =>
    obtain ⟨op, ho, hop'⟩ : ∃ op, g.op = some op ∧ (op = .tack ∨ op = .groups) :=
      hop.elim (fun h => ⟨_, h, .inl rfl⟩) (fun h => ⟨_, h, .inr rfl⟩)
    rw [walkSegment_still hf ho hop', ho]
    refine ⟨fun hl => if_pos hl, fun hl => ?_⟩
    rw [if_neg (by simp [hl])]
    refine ⟨fun ht hbad => ?_, fun hok => ?_⟩
    · cases ht
      rw [if_pos ⟨rfl, by rw [← Bool.not_eq_true, tackOk_iff]; exact hbad⟩]
    · have hgood : ¬ (op = .tack ∧ tackOk g = false) := fun ⟨ht, hbad⟩ => by
        subst ht
        rw [← Bool.not_eq_true, tackOk_iff] at hbad
        exact hok.elim (fun h => by cases h) hbad
      rw [if_neg hgood]
      exact ⟨fun hi => if_neg (by omega), fun hi => if_pos hi⟩
  case closing =>
    intro s slot info v interval suspended hp hop hr
    have h := readComplete_closing hp hop hr
    cases v <;> exact h

end Sys2Proof.Machine
end

section
/-! SUPPORT. Start-up: the setup page read back from its bytes, the setup load, and the scan of the slots. -/

namespace Sys2Proof.Machine

/-! ### Values read back from their octets -/

theorem toNat_octet {n : Nat} (h : n < 256) : (BitVec.ofNat 8 n).toNat = n := by
  rw [BitVec.toNat_ofNat]; exact Nat.mod_eq_of_lt h

theorem natOfOctets_octets16 (x : Word16) : natOfOctets (octets16 x) = x.toNat := by
  simp only [natOfOctets, octets16, List.foldl_cons, List.foldl_nil, BitVec.extractLsb'_toNat, Nat.shiftRight_eq_div_pow]
  omega

theorem natOfOctets_octetsNat16 {n : Nat} (h : n < 65536) : natOfOctets (octetsNat16 n) = n := by
  rw [octetsNat16, natOfOctets_octets16, BitVec.toNat_ofNat]; exact Nat.mod_eq_of_lt h

theorem natOfOctets_octets32 (x : Word32) : natOfOctets (octets32 x) = x.toNat := by
  simp only [natOfOctets, octets32, List.foldl_cons, List.foldl_nil, BitVec.extractLsb'_toNat, Nat.shiftRight_eq_div_pow]
  omega

theorem arrayBytes_add (mem : List Host.Cell) (a m n : Nat) :
    arrayBytes mem a (m + n) = arrayBytes mem a m ++ arrayBytes mem (a + m) n := by
  induction m generalizing a with
  | zero => simp [arrayBytes]
  | succ m ih =>
    rw [Nat.succ_add, arrayBytes, arrayBytes, ih, List.cons_append, Nat.add_right_comm, Nat.add_assoc]

theorem arrayBytes_length (mem : List Host.Cell) (a n : Nat) : (arrayBytes mem a n).length = n := by
  induction n generalizing a with
  | zero => rfl
  | succ n ih => rw [arrayBytes, List.length_cons, ih]

/-- A stretch of a span of bytes. -/
theorem arrayBytes_slice {mem : List Host.Cell} {a n o k : Nat} (h : o + k ≤ n) :
    arrayBytes mem (a + o) k = ((arrayBytes mem a n).drop o).take k := by
  obtain ⟨m, rfl⟩ := Nat.exists_eq_add_of_le h
  rw [Nat.add_assoc, arrayBytes_add, arrayBytes_add, List.drop_left' (arrayBytes_length ..),
    List.take_left' (arrayBytes_length ..)]

theorem boolOctet_eq (b : Bool) : boolOctet b = BitVec.ofNat 8 b.toNat := by cases b <;> rfl

theorem roleOfCode_code (r : Role) : roleOfCode r.code = some r := by cases r <;> rfl

/-! ### The role table of the page -/

/-- The role table's bytes, as they are programmed, are read back entry by entry. -/
theorem pageRoles_eq {mem : List Host.Cell} (roles : List RoleEntry) (i : Nat) (hn : ∀ e ∈ roles, e.node ≤ 30)
    (h : arrayBytes mem (setupBase + 28 + 2 * i) (2 * roles.length) =
      roles.flatMap fun e => [BitVec.ofNat 8 e.node, e.role.code]) :
    pageRoles mem roles.length i = roles.map fun e => (e.node, some e.role) := by
  induction roles generalizing i with
  | nil => rfl
  | cons e rest ih =>
    have hlen : 2 * (e :: rest).length = 2 * rest.length + 1 + 1 := by rw [List.length_cons]; omega
    rw [hlen, arrayBytes, arrayBytes, List.flatMap_cons] at h
    simp only [List.cons_append, List.nil_append, List.cons.injEq] at h
    obtain ⟨hnode, hrole, hrest⟩ := h
    have hnext : pageRoles mem rest.length (i + 1) = rest.map fun e => (e.node, some e.role) :=
      ih (i + 1) (fun x hx => hn x (List.mem_cons_of_mem _ hx)) (by rw [← hrest]; congr 1)
    have he : e.node ≤ 30 := hn e List.mem_cons_self
    have haddr : setupBase + 29 + 2 * i = setupBase + 28 + 2 * i + 1 := by omega
    rw [List.length_cons, pageRoles, hnext, hnode, haddr, hrole, toNat_octet (by omega), roleOfCode_code, List.map_cons]

theorem rolesOf_map (roles : List RoleEntry) : rolesOf (roles.map fun e => (e.node, some e.role)) = some roles := by
  induction roles with
  | nil => rfl
  | cons e rest ih => rw [List.map_cons, rolesOf, ih]; rfl

/-! ### The setup page -/

/-- The number in one octet of the setup page. -/
def pageByte (mem : List Host.Cell) (o : Nat) : Nat := (arrayByte mem (setupBase + o)).toNat

/-- The number in two octets of the setup page. -/
def pageWord (mem : List Host.Cell) (o : Nat) : Nat := natOfOctets (arrayBytes mem (setupBase + o) 2)

/-- The setup page holds the signature and the fields of some settings, each at its offset (chapter 11). -/
structure PageHolds (mem : List Host.Cell) (st : Settings) : Prop where
  signature0 : pageByte mem 0 = 0xC3
  signature1 : pageByte mem 1 = 0x5A
  nodeNumber : pageByte mem 2 = st.nodeNumber
  cellTime : pageByte mem 3 = st.cellTime
  lineFilter : pageByte mem 4 = st.lineFilter.toNat
  travel : pageWord mem 5 = st.travel
  homeLateral : pageWord mem 7 = st.homeLateral
  xMax : pageByte mem 9 = st.xMax
  yFwd : pageByte mem 10 = st.yFwd
  yRev : pageByte mem 11 = st.yRev
  xJmax : pageByte mem 12 = st.xJmax
  yJmax : pageByte mem 13 = st.yJmax
  defStitch : pageByte mem 14 = st.defStitch
  defTackCount : pageByte mem 15 = st.defTackCount
  defTackLength : pageByte mem 16 = st.defTackLength
  primeDepth : pageByte mem 17 = st.primeDepth
  leadLimit : pageByte mem 18 = st.leadLimit
  stopSilence : pageWord mem 19 = st.stopSilence
  spliceHalf : pageWord mem 21 = st.spliceHalf
  protect : natOfOctets (arrayBytes mem (setupBase + 23) 4) = st.protect.toNat
  roleCount : pageByte mem 27 = st.roles.length
  roles : rolesOf (pageRoles mem st.roles.length 0) = some st.roles

/-- The first 28 bytes of the page: the signature, the fields, and the count of role table entries. -/
def setupHead (st : Settings) : List Byte :=
  0xC3 :: 0x5A :: BitVec.ofNat 8 st.nodeNumber :: BitVec.ofNat 8 st.cellTime :: boolOctet st.lineFilter ::
    (octetsNat16 st.travel ++ (octetsNat16 st.homeLateral ++ BitVec.ofNat 8 st.xMax :: BitVec.ofNat 8 st.yFwd ::
    BitVec.ofNat 8 st.yRev :: BitVec.ofNat 8 st.xJmax :: BitVec.ofNat 8 st.yJmax :: BitVec.ofNat 8 st.defStitch ::
    BitVec.ofNat 8 st.defTackCount :: BitVec.ofNat 8 st.defTackLength :: BitVec.ofNat 8 st.primeDepth ::
    BitVec.ofNat 8 st.leadLimit :: (octetsNat16 st.stopSilence ++ (octetsNat16 st.spliceHalf ++
    (octets32 st.protect ++ [BitVec.ofNat 8 st.roles.length])))))

theorem setupHead_append (st : Settings) :
    0xC3 :: 0x5A :: setupFieldBytes st =
      setupHead st ++ st.roles.flatMap fun e => [BitVec.ofNat 8 e.node, e.role.code] := by
  unfold setupFieldBytes setupHead
  simp only [octet, List.append_assoc, List.cons_append, List.nil_append]

theorem setupHead_length (st : Settings) : (setupHead st).length = 28 := by
  simp [setupHead, octetsNat16, octets16, octets32]

theorem pageByte_of {mem : List Host.Cell} {st : Settings} (h : arrayBytes mem setupBase 28 = setupHead st) (o : Nat)
    {n : Nat} (ho : o < 28) (hd : ((setupHead st).drop o).take 1 = [BitVec.ofNat 8 n]) (hn : n < 256) :
    pageByte mem o = n := by
  have hs : [arrayByte mem (setupBase + o)] = [BitVec.ofNat 8 n] := by
    rw [← hd, ← h]; exact arrayBytes_slice (k := 1) ho
  rw [pageByte, List.head_eq_of_cons_eq hs, toNat_octet hn]

theorem pageWord_of {mem : List Host.Cell} {st : Settings} (h : arrayBytes mem setupBase 28 = setupHead st) (o : Nat)
    {n : Nat} (ho : o + 2 ≤ 28) (hd : ((setupHead st).drop o).take 2 = octetsNat16 n) (hn : n < 65536) :
    pageWord mem o = n := by
  rw [pageWord, arrayBytes_slice ho, h, hd, natOfOctets_octetsNat16 hn]

theorem pageHolds_of_bytes {mem : List Host.Cell} {st : Settings} (hr : SettingsInRange st)
    (hn : ∀ e ∈ st.roles, e.node ≤ 30) (hlen : st.roles.length ≤ 8)
    (h : arrayBytes mem setupBase (28 + 2 * st.roles.length) = 0xC3 :: 0x5A :: setupFieldBytes st) : PageHolds mem st := by
  rw [setupHead_append, arrayBytes_add] at h
  obtain ⟨hhead, hroles⟩ := List.append_inj h ((arrayBytes_length ..).trans (setupHead_length st).symm)
  obtain ⟨⟨_, h2⟩, ⟨_, h3⟩, ⟨_, h5⟩, ⟨_, h7⟩, ⟨_, h9⟩, ⟨_, h10⟩, ⟨_, h11⟩, ⟨_, h12⟩, ⟨_, h13⟩, ⟨_, h14⟩, h15, ⟨_, h16⟩,
    ⟨_, h17⟩, ⟨_, h18⟩, ⟨_, h19⟩, ⟨_, h21⟩⟩ := hr
  have hfilter : st.lineFilter.toNat < 256 := by cases st.lineFilter <;> decide
  exact
    { signature0 := pageByte_of hhead 0 (by omega) rfl (by omega)
      signature1 := pageByte_of hhead 1 (by omega) rfl (by omega)
      nodeNumber := pageByte_of hhead 2 (by omega) rfl (by omega)
      cellTime := pageByte_of hhead 3 (by omega) rfl (by omega)
      lineFilter := pageByte_of hhead 4 (by omega) (by rw [← boolOctet_eq]; rfl) hfilter
      travel := pageWord_of hhead 5 (by omega) rfl (by omega)
      homeLateral := pageWord_of hhead 7 (by omega) rfl (by omega)
      xMax := pageByte_of hhead 9 (by omega) rfl (by omega)
      yFwd := pageByte_of hhead 10 (by omega) rfl (by omega)
      yRev := pageByte_of hhead 11 (by omega) rfl (by omega)
      xJmax := pageByte_of hhead 12 (by omega) rfl (by omega)
      yJmax := pageByte_of hhead 13 (by omega) rfl (by omega)
      defStitch := pageByte_of hhead 14 (by omega) rfl (by omega)
      defTackCount := pageByte_of hhead 15 (by omega) rfl (by omega)
      defTackLength := pageByte_of hhead 16 (by omega) rfl (by omega)
      primeDepth := pageByte_of hhead 17 (by omega) rfl (by omega)
      leadLimit := pageByte_of hhead 18 (by omega) rfl (by omega)
      stopSilence := pageWord_of hhead 19 (by omega) rfl (by omega)
      spliceHalf := pageWord_of hhead 21 (by omega) rfl (by omega)
      protect := by
        rw [arrayBytes_slice (n := 28) (o := 23) (by omega), hhead, ← natOfOctets_octets32]; rfl
      roleCount := pageByte_of hhead 27 (by omega) rfl (by omega)
      roles := by rw [pageRoles_eq st.roles 0 hn hroles, rolesOf_map] }

/-- A page that holds settings in range passes every test of R171. The facts about the page (f) and the ranges (r) are numbered by
the offset of their field. -/
theorem readSetupPage_of_holds {mem : List Host.Cell} {st : Settings} (h : PageHolds mem st) (hr : SettingsInRange st)
    (ht : roleTableOk st.roles = true) (hlen : st.roles.length ≤ 8) : readSetupPage mem = .ok st := by
  obtain ⟨f0, f1, f2, f3, f4, f5, f7, f9, f10, f11, f12, f13, f14, f15, f16, f17, f18, f19, f21, f23, f27, froles⟩ := h
  obtain ⟨r2, r3, r5, r7, r9, r10, r11, r12, r13, r14, r15, r16, r17, r18, r19, r21⟩ := hr
  have r4 : st.lineFilter.toNat ≤ 1 := by cases st.lineFilter <;> decide
  have hfilter : (st.lineFilter.toNat != 0) = st.lineFilter := by cases st.lineFilter <;> rfl
  simp only [pageByte, pageWord] at f0 f1 f2 f3 f4 f5 f7 f9 f10 f11 f12 f13 f14 f15 f16 f17 f18 f19 f21 f27
  simp only [within] at r2 r3 r5 r7 r9 r10 r11 r12 r13 r14 r16 r17 r18 r19 r21
  have htack : (st.defTackCount == 0 || st.defTackCount == 2 || st.defTackCount == 4 || st.defTackCount == 6) = true := by
    simpa [or_assoc] using r15
  unfold readSetupPage
  simp only [f0, f1, f2, f3, f4, f5, f7, f9, f10, f11, f12, f13, f14, f15, f16, f17, f18, f19, f21, f23, f27]
  simp [Config.roleSize, *]

theorem nodes_of_roleTableOk {roles : List RoleEntry} (h : roleTableOk roles = true) : ∀ e ∈ roles, e.node ≤ 30 := by
  simp only [roleTableOk, Bool.and_eq_true, List.all_eq_true, decide_eq_true_eq] at h
  exact h.1.1.1

theorem signature_missing {mem : List Host.Cell} (h : arrayByte mem setupBase ≠ 0xC3 ∨ arrayByte mem (setupBase + 1) ≠ 0x5A) :
    signatureStands mem = false := by
  simpa only [signatureStands, Bool.and_eq_false_iff, beq_eq_false_iff_ne] using h

/-! ### What follows at once in start-up -/

/-- With the expander idle in STANDBY only the port can have something to do. -/
theorem settle_eq_portNext {s : State} (hx : s.sx.state = .idle) (hc : s.rc.state = .standby) :
    settle s = portNext s := by
  have hsx : sxSettle 4 s = s := by unfold sxSettle; rw [hx]
  have hrc : rcTests s = s := by simp [rcTests, State.primed, State.runDone, hc]
  rw [settle, hsx, hrc]

/-- With a read in flight nothing follows. -/
theorem settle_of_inFlight {s : State} {r : ReadFor} (hx : s.sx.state = .idle) (hc : s.rc.state = .standby)
    (hp : s.pl.port.inFlight = some r) : settle s = s := by
  rw [settle_eq_portNext hx hc, portNext, hp]

/-- With the port quiet and no operation in hand nothing follows. -/
theorem settle_of_quiet {s : State} (hx : s.sx.state = .idle) (hc : s.rc.state = .standby) (hop : s.pl.op = none)
    (hp : s.pl.port = .quiet) : settle s = s := by
  have hport : s.setPort .quiet = s := by rw [← hp]; rfl
  rw [settle_eq_portNext hx hc, portNext, hp, hop]
  exact hport

/-! ### The reads of the scan -/

/-- A read of start-up is delivered to the scan, with the port quiet. -/
theorem readComplete_scanning {s : State} {found : List SlotEntry} {r : ScanRead} (h : ScanningAt s found r) :
    exec .readComplete s = .next (settle (scanRead found r (s.setPort .quiet))) := by
  have hfreed : s.portFreed = s.setPort .quiet := by rw [State.portFreed, h.port]; rfl
  rw [exec_readComplete h.powered (by rw [h.port]), hfreed]
  simp only [deliver, State.setPort, setPl_st, h.startUp]

theorem goesOn_of_scanNext {s : State} {found : List SlotEntry} {r next : ScanRead} (h : ScanningAt s found r)
    (hr : scanRead found r (s.setPort .quiet) = scanNext next (s.setPort .quiet)) :
    Leaves (exec .readComplete s) fun t => ScanGoesOn s t next := by
  refine ⟨_, readComplete_scanning h, ?_⟩
  rw [hr]
  exact settle_of_inFlight h.expander h.run rfl

/-- The slot is classified: before slot 31 the next one follows, after it READY is reached. -/
theorem slotClassified_of_classified {s : State} {found : List SlotEntry} {r : ScanRead} {e : SlotEntry}
    (h : ScanningAt s found r)
    (hr : scanRead found r (s.setPort .quiet) = classified found e (s.setPort .quiet)) :
    Leaves (exec .readComplete s) fun t => SlotClassified s t found e := by
  refine ⟨_, readComplete_scanning h, fun hlt => ?_, fun hlast => ?_⟩
  · have hnext : classified found e (s.setPort .quiet) = (s.setSt { s.st with startUp := .scanning (found ++ [e]) }).setPort
        { Port.quiet with inFlight := some (.scan (.page (found.length + 1) 0)) } := by
      unfold classified
      rw [if_pos (by simp only [List.length_append, List.length_singleton, Config.slotCount]; omega), List.length_append]
      rfl
    rw [hr, hnext]
    exact settle_of_inFlight h.expander h.run rfl
  · have hready : classified found e (s.setPort .quiet) = reachReady (found ++ [e]) (s.setPort .quiet) := by
      unfold classified
      exact if_neg (by simp [hlast, Config.slotCount])
    have hquiet : settle (reachReady (found ++ [e]) (s.setPort .quiet)) = reachReady (found ++ [e]) (s.setPort .quiet) :=
      settle_of_quiet h.expander h.run h.op rfl
    rw [hr, hready, hquiet]
    refine ⟨rfl, rfl, rfl, rfl, rfl, ?_⟩
    simp [reachReady, announceState, stateFrame, stateOctets, State.setPort, h.run, RunState.code, StateReason.code,
      StateReason.raised]

/-- A validation read of the scan: the next segment, or the slot's class (R15). -/
theorem leaves_scanWalk {s : State} {found : List SlotEntry} {r : ScanRead} {slot : Nat} {result : WalkResult}
    (h : ScanningAt s found r)
    (hr : scanRead found r (s.setPort .quiet) = scanWalk found slot result (s.setPort .quiet)) :
    (∀ w, result = .more w → Leaves (exec .readComplete s) fun t => ScanGoesOn s t (.segment slot w)) ∧
    (∀ n reason, result = .bad n reason → Leaves (exec .readComplete s) fun t => SlotClassified s t found .failed) ∧
    ∀ info, result = .valid info → Leaves (exec .readComplete s) fun t => SlotClassified s t found
      (if arrayBytes s.pl.array (slotBase slot + 16) 15 = summaryBytes info then .closed info else .failed) := by
  refine ⟨fun w hw => ?_, fun n reason hb => ?_, fun info hv => ?_⟩
  · exact goesOn_of_scanNext h (by rw [hr, hw]; rfl)
  · exact slotClassified_of_classified h (by rw [hr, hb]; rfl)
  · refine slotClassified_of_classified h ?_
    rw [hr, hv, scanWalk]
    simp only [summaryMatches, beq_iff_eq, setPort_pl_array]

/-! ### The setup load -/

@[simp] theorem setupLoad_rc (s : State) : (setupLoad s).rc = s.rc := by
  unfold setupLoad followSettings; dsimp only; split <;> rfl
@[simp] theorem setupLoad_sx_state (s : State) : (setupLoad s).sx.state = s.sx.state := by
  unfold setupLoad followSettings; dsimp only; split <;> rfl

theorem setupLoad_of_ok {s : State} {new : Settings} (h : readSetupPage s.pl.array = .ok new) :
    (setupLoad s).st = { s.st with working := new, defaults := false } := by
  rw [setupLoad, h]; rfl

theorem setupLoad_of_error {s : State} {test : Byte} (h : readSetupPage s.pl.array = .error test) :
    (setupLoad s).st = { s.st with working := .defaults, defaults := true } := by
  rw [setupLoad, h]; rfl

/-- The values that follow the settings in force (R174, step 2). -/
theorem setupLoad_follows (s : State) :
    (setupLoad s).lp.node = (setupLoad s).st.working.nodeNumber ∧
    (setupLoad s).lp.cellTime = (setupLoad s).st.working.cellTime ∧
    (setupLoad s).lp.filter = (setupLoad s).st.working.lineFilter ∧
    (setupLoad s).wt.lateral = (setupLoad s).st.working.homeLateral ∧
    (setupLoad s).sx.context.intended = (setupLoad s).st.working.homeLateral ∧
    (setupLoad s).sw.leadLimit = (setupLoad s).st.working.leadLimit := by
  unfold setupLoad
  exact ⟨rfl, rfl, rfl, rfl, rfl, rfl⟩

/-- The setup page's read loads the settings and puts the scan's first read in flight. -/
theorem readComplete_setup {s : State} {found : List SlotEntry} (h : ScanningAt s found .setup) :
    exec .readComplete s = .next (scanNext (.page 0 0) (setupLoad (s.setPort .quiet))) := by
  rw [readComplete_scanning h, scanRead, settle_of_inFlight (r := .scan (.page 0 0))]
  · simpa [scanNext, State.setPort] using h.expander
  · simpa [scanNext, State.setPort] using h.run
  · rfl

/-- Settles O33, by the setup page's fields at their offsets, the settings that the load takes, and the read that each read of
the scan leads to. -/
theorem startUpLoadsAndScans : Obligations.StartUpLoadsAndScans := by
  refine ⟨fun mem st hr ht hlen h => ?page, fun mem h => readSetupPage_of_no_signature (signature_missing h),
    fun s h => ?load, fun s found slot page h => ?pages, fun s found slot h => ?mark,
    fun s found slot r result h hread => ?walk⟩
  case page =>
    exact readSetupPage_of_holds (pageHolds_of_bytes hr (nodes_of_roleTableOk ht) hlen h) hr ht hlen
  case load =>
    obtain ⟨hnode, hcell, hfilter, hlateral, hintended, hlead⟩ := setupLoad_follows (s.setPort .quiet)
    refine ⟨_, readComplete_setup h, fun new hnew => setupLoad_of_ok (s := s.setPort .quiet) hnew,
      fun test htest => setupLoad_of_error (s := s.setPort .quiet) htest, hnode, hcell, hfilter, hlateral, hintended, hlead,
      ?_, setupLoad_rc _⟩
    simp [scanNext, State.setPort]
  case pages =>
    refine ⟨fun hb hp => goesOn_of_scanNext h ?_, fun hb hp => slotClassified_of_classified h ?_,
      fun hb => goesOn_of_scanNext h ?_⟩
    · exact (if_pos hb).trans (if_pos hp)
    · exact (if_pos hb).trans (if_neg (by omega))
    · exact if_neg (by rw [Bool.not_eq_true]; exact hb)
  case mark =>
    refine ⟨fun hm => slotClassified_of_classified h ?_, fun hm => goesOn_of_scanNext h ?_,
      fun ho hc => slotClassified_of_classified h ?_⟩
    · exact if_pos hm
    · exact (if_neg (by rw [setPort_pl_array, hm]; decide)).trans (if_pos hm)
    · exact (if_neg ho).trans (if_neg hc)
  case walk =>
    rcases hread with ⟨rfl, rfl⟩ | ⟨w, rfl, rfl⟩
    · exact leaves_scanWalk h rfl
    · exact leaves_scanWalk h rfl

end Sys2Proof.Machine
end

section
/-! SUPPORT. The sizes of the lists: what each operation does to them, and that every command keeps them. -/

namespace Sys2Proof.Machine

/-! ### The page buffer -/

/-- The loaded offsets stand in rising order below 256 (R19). -/
def BufferSound (buffer : List Host.Cell) : Prop := Rising buffer ∧ ∀ c ∈ buffer, c.1 < 256

/-- Rising addresses from `a` up to below `b` are at most `b - a` many. -/
theorem length_le_of_rising {cells : List Host.Cell} {a b : Nat} (hr : Rising cells) (hlo : ∀ c ∈ cells, a ≤ c.1)
    (hhi : ∀ c ∈ cells, c.1 < b) : cells.length ≤ b - a := by
  induction cells generalizing a with
  | nil => exact Nat.zero_le _
  | cons c rest ih =>
    obtain ⟨hfirst, hrest⟩ := List.pairwise_cons.1 hr
    have hle : rest.length ≤ b - (c.1 + 1) := ih hrest hfirst fun d hd => hhi d (List.mem_cons_of_mem _ hd)
    have hlo' := hlo c List.mem_cons_self
    have hhi' := hhi c List.mem_cons_self
    rw [List.length_cons]
    omega

theorem BufferSound.length_le {buffer : List Host.Cell} (h : BufferSound buffer) : buffer.length ≤ 256 :=
  length_le_of_rising (a := 0) h.1 (fun _ _ => Nat.zero_le _) h.2

theorem bufferSound_nil : BufferSound [] := ⟨List.Pairwise.nil, by simp⟩

theorem BufferSound.loadCells {buffer : List Host.Cell} (h : BufferSound buffer) (offset : Byte) (data : List Byte) :
    BufferSound (loadCells buffer offset data) := by
  induction data generalizing buffer offset with
  | nil => exact h
  | cons b rest ih =>
    refine ih ⟨rising_setCell h.1 _ _, fun c hc => ?_⟩ _
    rcases mem_setCell hc with rfl | hc
    · exact offset.isLt
    · exact h.2 c hc

/-! ### What is kept, list by list -/

theorem withinSizes_iff (s : State) :
    WithinSizes s ↔ s.queue.length ≤ 8 ∧ s.sw.ring.length ≤ 16 ∧ s.gh.history.length ≤ 64 ∧ s.wt.zones.length ≤ 4 ∧
      s.lp.inbound.length ≤ 4 ∧ s.lp.general.length + s.lp.service.isSome.toNat ≤ 5 ∧ BufferSound s.pl.pageBuffer ∧
      s.st.working.roles.length ≤ 8 := by
  have hsound : BufferSound s.pl.pageBuffer ↔ risingCells s.pl.pageBuffer = true ∧ ∀ c ∈ s.pl.pageBuffer, c.1 < 256 := by
    simp [BufferSound, Rising, risingCells]
  constructor
  · rintro ⟨hq, hr, hh, hz, hi, hg, hl, -, hro⟩
    exact ⟨hq, hr, hh, hz, hi, hg, hsound.2 hl, hro⟩
  · rintro ⟨hq, hr, hh, hz, hi, hg, hl, hro⟩
    exact ⟨hq, hr, hh, hz, hi, hg, hsound.1 hl, hl.length_le, hro⟩

/-! Setters and shared operations that reach none of the lists. -/

@[simp] theorem withinSizes_setPins (s : State) (x : Pins) : WithinSizes (s.setPins x) ↔ WithinSizes s := by
  simp [withinSizes_iff]
@[simp] theorem withinSizes_setSx (s : State) (x : Expander) : WithinSizes (s.setSx x) ↔ WithinSizes s := by
  simp [withinSizes_iff]
@[simp] theorem withinSizes_setRc (s : State) (x : RunControl) : WithinSizes (s.setRc x) ↔ WithinSizes s := by
  simp [withinSizes_iff]
@[simp] theorem withinSizes_setPort (s : State) (p : Port) : WithinSizes (s.setPort p) ↔ WithinSizes s := by
  simp [withinSizes_iff]
@[simp] theorem withinSizes_setPending (s : State) (x : List Instr) : WithinSizes (s.setPending x) ↔ WithinSizes s := by
  simp [withinSizes_iff]
@[simp] theorem withinSizes_countRun (s : State) (f : RunCounters → RunCounters) :
    WithinSizes (s.countRun f) ↔ WithinSizes s := by simp [withinSizes_iff]
@[simp] theorem withinSizes_raiseCause (c : Cause) (s : State) : WithinSizes (raiseCause c s) ↔ WithinSizes s := by
  simp [withinSizes_iff]
@[simp] theorem withinSizes_announceState (r : StateReason) (s : State) :
    WithinSizes (announceState r s) ↔ WithinSizes s := by simp [withinSizes_iff]
@[simp] theorem withinSizes_enterRunState (x : RunState) (r : StateReason) (s : State) :
    WithinSizes (enterRunState x r s) ↔ WithinSizes s := by simp [withinSizes_iff]
@[simp] theorem withinSizes_portNext (s : State) : WithinSizes (portNext s) ↔ WithinSizes s := by simp [withinSizes_iff]
@[simp] theorem withinSizes_settle (s : State) : WithinSizes (settle s) ↔ WithinSizes s := by simp [withinSizes_iff]
@[simp] theorem withinSizes_dropReads (s : State) : WithinSizes (dropReads s) ↔ WithinSizes s := by
  simp [withinSizes_iff]
@[simp] theorem withinSizes_takeUp (o : Order) (copy : Nat) (s : State) :
    WithinSizes (takeUp o copy s) ↔ WithinSizes s := by simp [withinSizes_iff]
@[simp] theorem withinSizes_hold (w : HoldReason) (s : State) : WithinSizes (hold w s) ↔ WithinSizes s := by
  simp [withinSizes_iff]
@[simp] theorem withinSizes_startExpander (s : State) : WithinSizes (startExpander s) ↔ WithinSizes s := by
  simp [withinSizes_iff]
@[simp] theorem withinSizes_rollback (s : State) : WithinSizes (rollback s) ↔ WithinSizes s := by simp [withinSizes_iff]
@[simp] theorem withinSizes_abortExpander (s : State) : WithinSizes (abortExpander s) ↔ WithinSizes s := by
  simp [withinSizes_iff]

/-! Setters of the blocks that hold the lists. -/

theorem WithinSizes.setQueue {s : State} (h : WithinSizes s) {x : List Order} (hx : x.length ≤ 8) :
    WithinSizes (s.setQueue x) := { h with queue := hx }
theorem WithinSizes.setSw {s : State} (h : WithinSizes s) {x : Window} (hx : x.ring.length ≤ 16) :
    WithinSizes (s.setSw x) := { h with ring := hx }
theorem WithinSizes.setGh {s : State} (h : WithinSizes s) {x : Groups} (hx : x.history.length ≤ 64) :
    WithinSizes (s.setGh x) := { h with history := hx }
theorem WithinSizes.setWt {s : State} (h : WithinSizes s) {x : Web} (hx : x.zones.length ≤ 4) :
    WithinSizes (s.setWt x) := { h with zones := hx }
theorem WithinSizes.setSt {s : State} (h : WithinSizes s) {x : SettingsBlock} (hx : x.working.roles.length ≤ 8) :
    WithinSizes (s.setSt x) := { h with roles := hx }
theorem WithinSizes.setLp {s : State} (h : WithinSizes s) {x : LinePort} (hi : x.inbound.length ≤ 4)
    (hg : x.general.length + x.service.isSome.toNat ≤ 5) : WithinSizes (s.setLp x) :=
  { h with inbound := hi, general := hg }
theorem WithinSizes.setPl {s : State} (h : WithinSizes s) {x : Library} (hx : BufferSound x.pageBuffer) :
    WithinSizes (s.setPl x) := by
  rw [withinSizes_iff] at h ⊢
  obtain ⟨hq, hr, hh, hz, hi, hg, -, hro⟩ := h
  exact ⟨hq, hr, hh, hz, hi, hg, hx, hro⟩

theorem WithinSizes.buffer {s : State} (h : WithinSizes s) : BufferSound s.pl.pageBuffer := by
  rw [withinSizes_iff] at h
  obtain ⟨-, -, -, -, -, -, hb, -⟩ := h
  exact hb

/-! Where a block keeps its list, so does the part. -/

@[simp] theorem withinSizes_setPl {s : State} {x : Library} (hx : x.pageBuffer = s.pl.pageBuffer) :
    WithinSizes (s.setPl x) ↔ WithinSizes s := by simp [withinSizes_iff, hx]
@[simp] theorem withinSizes_setQueue {s : State} {x : List Order} (hx : x.length = s.queue.length) :
    WithinSizes (s.setQueue x) ↔ WithinSizes s := by simp [withinSizes_iff, hx]
@[simp] theorem withinSizes_setSw {s : State} {x : Window} (hx : x.ring.length = s.sw.ring.length) :
    WithinSizes (s.setSw x) ↔ WithinSizes s := by simp [withinSizes_iff, hx]
@[simp] theorem withinSizes_setGh {s : State} {x : Groups} (hx : x.history = s.gh.history) :
    WithinSizes (s.setGh x) ↔ WithinSizes s := by simp [withinSizes_iff, hx]
@[simp] theorem withinSizes_setWt {s : State} {x : Web} (hx : x.zones = s.wt.zones) :
    WithinSizes (s.setWt x) ↔ WithinSizes s := by simp [withinSizes_iff, hx]
@[simp] theorem withinSizes_setSt {s : State} {x : SettingsBlock}
    (hx : x.working.roles.length = s.st.working.roles.length) : WithinSizes (s.setSt x) ↔ WithinSizes s := by
  simp [withinSizes_iff, hx]

/-! ### The request in service and its answer -/

/-- The answer takes the place claimed for it (R160). -/
@[simp] theorem withinSizes_answerThen {sv : Service} {st : Status} {ps : List Byte} {a : AfterFrame} {s : State}
    (hs : s.lp.service.isSome = true) : WithinSizes (answerThen sv st ps a s) ↔ WithinSizes s := by
  simp [withinSizes_iff, answerThen_lp, hs]

@[simp] theorem withinSizes_answer {sv : Service} {st : Status} {ps : List Byte} {s : State}
    (hs : s.lp.service.isSome = true) : WithinSizes (answer sv st ps s) ↔ WithinSizes s := withinSizes_answerThen hs

@[simp] theorem withinSizes_serviceWaits {sv : Service} {p : ServicePhase} {s : State}
    (hs : s.lp.service.isSome = true) : WithinSizes (s.serviceWaits sv p) ↔ WithinSizes s := by
  simp [withinSizes_iff, serviceWaits_lp, hs]

theorem placeFree_iff (lp : LinePort) : lp.placeFree = true ↔ lp.general.length + lp.service.isSome.toNat < 5 :=
  decide_eq_true_iff

/-- A PANEL_DONE takes a free place alone (R163). -/
theorem WithinSizes.announcePanelDone {s : State} (h : WithinSizes s) (tag : Word16) (copy left : Nat)
    (cut : Option CutEntry) : WithinSizes (announcePanelDone tag copy left cut s) := by
  refine h.setLp ?_ ?_
  · unfold LinePort.offerAnnouncement; split <;> exact h.inbound
  · unfold LinePort.offerAnnouncement
    split
    · next hfree =>
      rw [placeFree_iff] at hfree
      simp only [List.length_append, List.length_singleton]
      omega
    · exact h.general

/-- A frame that can be handed on leaves room for its answer (R160). -/
theorem WithinSizes.handOn {s : State} (h : WithinSizes s) (r : RequestFrame) (hc : s.canHandOn = true) :
    WithinSizes (handOn r s) := by
  simp only [State.canHandOn, Bool.and_eq_true, placeFree_iff] at hc
  obtain ⟨⟨-, hfree⟩, -⟩ := hc
  have hanswer : ∀ node role status params,
      WithinSizes (s.setLp (s.lp.answerTo node role status params .none)) := fun _ _ _ _ =>
    h.setLp h.inbound (by simp [LinePort.answerTo]; omega)
  have hserve : ∀ sv : Service, WithinSizes (s.setLp { s.lp with service := some sv }) := fun _ =>
    h.setLp h.inbound (by simp; omega)
  unfold Machine.handOn
  dsimp only
  (repeat' split) <;> first | exact hanswer .. | exact hserve _

/-- A request keeps the sizes when its owner's step does. -/
theorem WithinSizes.takeRequest {c : Instr} {own : Service → State → State} {s : State} (h : WithinSizes s)
    (hown : ∀ sv s', WithinSizes s' → Serving s' sv c → WithinSizes (own sv s')) : WithinSizes (takeRequest c own s) :=
  takeRequest_keeps h (fun r _ hc => h.handOn r hc) hown

/-! ### The plan line -/

/-- Without a free inbound slot no reception comes to a frame (R159, R160). -/
theorem receiveSlots_frame_none {v : Receiver} (hv : v.slotFree = false) (n : Nat) (at' : Reception)
    (cells : List LineCell) (r : Received) (hat : ∀ src octets, at' ≠ .receiving src octets) (hr : r.frame = none) :
    (receiveSlots v n at' cells r).frame = none := by
  induction n generalizing at' cells r with
  | zero => rfl
  | succ n ih =>
    have hnext : ∀ x parity last src octets, (judgeOctet v at' x parity last).next ≠ .receiving src octets := by
      intro x parity last src octets
      unfold judgeOctet
      rw [hv]
      cases at' with
      | receiving s o => exact absurd rfl (hat s o)
      | _ => dsimp only; (repeat' split) <;> simp_all
    have hcomplete : ∀ x parity last, (judgeOctet v at' x parity last).next.complete = none := by
      intro x parity last
      have hx := hnext x parity last
      unfold Reception.complete
      split
      · next heq => exact absurd heq (hx _ _)
      · rfl
    unfold receiveSlots
    split
    · rfl
    · dsimp only
      split
      · split
        · rfl
        · split
          · exact hcomplete ..
          · exact ih _ _ _ (hnext _ _ _) hr
      · rfl

/-- What the plan line holds is within its sizes: the inbound buffer, the general places with the one claimed. -/
def LinePort.Within (lp : LinePort) : Prop :=
  lp.inbound.length ≤ 4 ∧ lp.general.length + lp.service.isSome.toNat ≤ 5

theorem WithinSizes.line {s : State} (h : WithinSizes s) : s.lp.Within := ⟨h.inbound, h.general⟩

theorem within_receiveSeen {lp : LinePort} (h : lp.Within) (cells : List LineCell) : (lp.receiveSeen cells).Within := by
  cases cells with
  | nil => exact h
  | cons m cells =>
    simp only [LinePort.receiveSeen]
    split
    · refine ⟨?_, h.2⟩
      show (lp.inbound ++ (receiveFrame lp.receiver cells).frame.toList).length ≤ 4
      rw [List.length_append]
      by_cases hfree : lp.inbound.length < 4
      · have hone : (receiveFrame lp.receiver cells).frame.toList.length ≤ 1 := by
          cases (receiveFrame lp.receiver cells).frame <;> simp
        omega
      · have hnone : (receiveFrame lp.receiver cells).frame = none :=
          receiveSlots_frame_none (decide_eq_false hfree) _ _ _ _ (fun _ _ => Reception.noConfusion) rfl
        rw [hnone]
        exact h.1
    · exact h

theorem within_receive {lp : LinePort} (h : lp.Within) (w : Wave) : (lp.receive w).Within := by
  unfold LinePort.receive
  split
  · exact h
  · exact within_receiveSeen h _

theorem within_releasePlace {lp : LinePort} (h : lp.Within) (x : Sending) : (lp.releasePlace x).Within := by
  unfold LinePort.releasePlace
  cases x.place with
  | state => dsimp only; split <;> exact h
  | general i =>
    dsimp only
    split
    · exact h
    · have hle : (lp.general.eraseIdx i).length ≤ lp.general.length := List.length_eraseIdx_le ..
      exact ⟨h.1, Nat.le_trans (Nat.add_le_add_right hle _) h.2⟩

theorem within_abortPlace {lp : LinePort} (h : lp.Within) (x : Sending) : (lp.abortPlace x).Within := by
  unfold LinePort.abortPlace
  dsimp only
  split
  · split
    · exact h
    · split <;> exact h
  · split
    · exact h
    · split
      · exact ⟨h.1, by rw [List.length_set]; exact h.2⟩
      · exact within_releasePlace h x

theorem within_endAttempt {lp : LinePort} (h : lp.Within) (w : Wave) : (lp.endAttempt w).Within := by
  unfold LinePort.endAttempt
  split
  · exact h
  · dsimp only
    split
    · refine within_releasePlace ?_ _; exact h
    · refine within_receiveSeen ?_ _; exact h
    · refine within_abortPlace ?_ _; exact h
    · refine within_abortPlace ?_ _; exact h
    · refine within_abortPlace ?_ _; exact h

theorem within_startFrame {lp : LinePort} (h : lp.Within) : lp.startFrame.Within := by
  unfold LinePort.startFrame
  (repeat' split) <;> exact h

theorem within_idleFor {lp : LinePort} (h : lp.Within) (recessiveNs : Nat) : (lp.idleFor recessiveNs).Within := by
  unfold LinePort.idleFor
  dsimp only
  (repeat' split) <;> exact h

/-! ### The queue, the window and what a retirement hands on -/

theorem length_updateOrder (queue : List Order) (tag : Word16) (f : Order → Order) :
    (updateOrder queue tag f).length = queue.length := List.length_map _

theorem length_removeOrder_le (queue : List Order) (tag : Word16) : (removeOrder queue tag).length ≤ queue.length :=
  List.length_filter_le ..

theorem length_endCopy_le (next : Order → Order) (queue : List Order) (o : Order) :
    (endCopy next queue o).length ≤ queue.length := by
  unfold endCopy
  split
  · exact length_removeOrder_le ..
  · exact Nat.le_of_eq (length_updateOrder ..)

theorem length_joinWaiting_le {w : Window} (h : w.ring.length ≤ 16) :
    (w.joinWaiting Config.windowSize).ring.length ≤ 16 := by
  obtain ⟨-, hlen, -⟩ := joinWaiting_spec 16 w (by omega) h
  rw [Config.windowSize, hlen]
  exact Nat.min_le_left ..

theorem WithinSizes.placesFreed {s : State} (h : WithinSizes s) : WithinSizes (placesFreed s) := by
  rw [Machine.placesFreed, withinSizes_settle]
  exact h.setSw (length_joinWaiting_le h.ring)

theorem WithinSizes.completeCopy {s : State} (h : WithinSizes s) (r : Record) : WithinSizes (completeCopy r s) := by
  unfold Machine.completeCopy
  split
  · refine WithinSizes.announcePanelDone (.setQueue ?_ (Nat.le_trans (length_endCopy_le ..) h.queue)) ..
    rw [withinSizes_setRc]
    exact h.setWt h.zones
  · exact h

theorem length_remove_le (w : Window) (serial : Word32) : (w.remove serial).ring.length ≤ w.ring.length :=
  (List.eraseP_sublist ..).length_le

theorem length_zones_retire_le (w : Web) (r : Record) : (w.retire r).zones.length ≤ w.zones.length := by
  unfold Web.retire
  dsimp only
  split
  · exact List.length_filter_le ..
  · exact Nat.le_refl _

theorem length_history_file_le (g : Groups) (r : Record) : (g.file r).history.length ≤ 64 := by
  simp only [Groups.file, List.length_drop, Config.historySize]
  omega

/-- The record leaves the window for the Web Tracker. -/
theorem WithinSizes.removed {s : State} (h : WithinSizes s) (r : Record) :
    WithinSizes ((s.setSw (s.sw.remove r.serial)).setWt (s.wt.retire r)) :=
  (h.setSw (Nat.le_trans (length_remove_le ..) h.ring)).setWt (Nat.le_trans (length_zones_retire_le ..) h.zones)

theorem WithinSizes.retireReposition {s : State} (h : WithinSizes s) (r : Record) :
    WithinSizes (retireReposition r s) := by
  refine WithinSizes.placesFreed ?_
  rw [withinSizes_setRc]
  exact (h.removed r).setGh h.history

theorem WithinSizes.retire {s : State} (h : WithinSizes s) (r : Record) : WithinSizes (retire r s) := by
  have hfiled := (h.removed r).setGh (x := s.gh.file r) (length_history_file_le ..)
  unfold Machine.retire
  dsimp only
  refine WithinSizes.placesFreed ?_
  have hcount : ∀ u : State, WithinSizes u → ∀ rc : RunControl,
      WithinSizes ((u.setRc rc).setQueue (updateOrder (u.setRc rc).queue r.tag fun o => o.accumulate r.flags)) :=
    fun u hu rc => ((withinSizes_setRc u rc).2 hu).setQueue (by rw [length_updateOrder]; exact hu.queue)
  split
  · refine WithinSizes.completeCopy (hcount _ ?_ _) r
    split
    · rw [withinSizes_setSx]; exact hfiled
    · exact hfiled
  · refine hcount _ ?_ _
    split
    · rw [withinSizes_setSx]; exact hfiled
    · exact hfiled

/-! ### The Library Controller -/

@[simp] theorem setEntry_pageBuffer (l : Library) (slot : Nat) (e : SlotEntry) :
    (l.setEntry slot e).pageBuffer = l.pageBuffer := by unfold Library.setEntry; rfl
@[simp] theorem finish_pageBuffer (l : Library) (w : OpWork) (r : OpResult) : (l.finish w r).pageBuffer = l.pageBuffer := by
  unfold Library.finish; rfl
@[simp] theorem proceed_pageBuffer (l : Library) (o : Op) (step : ArrayStep) :
    (l.proceed o step).pageBuffer = l.pageBuffer := by unfold Library.proceed; rfl
@[simp] theorem fail_pageBuffer (l : Library) (w : OpWork) : (l.fail w).pageBuffer = l.pageBuffer := by
  unfold Library.fail; dsimp only; split <;> rfl
@[simp] theorem nextStep_pageBuffer (l : Library) (o : Op) (step : ArrayStep) :
    (l.nextStep o step).pageBuffer = l.pageBuffer := by
  unfold Library.nextStep; dsimp only; split <;> rfl
@[simp] theorem closeDone_pageBuffer (l : Library) (w : OpWork) : (l.closeDone w).pageBuffer = l.pageBuffer := by
  unfold Library.closeDone; split <;> rfl
@[simp] theorem voidAndFail_pageBuffer (l : Library) (o : Op) : (l.voidAndFail o).pageBuffer = l.pageBuffer := by
  unfold Library.voidAndFail Library.writeMark; (repeat' split) <;> simp
@[simp] theorem stepEnded_pageBuffer (l : Library) (o : Op) (step : ArrayStep) (good expired : Bool) :
    (l.stepEnded o step good expired).pageBuffer = l.pageBuffer := by
  cases step <;> unfold Library.stepEnded <;> dsimp only <;> (try unfold Library.writeMark) <;> (repeat' split) <;> simp

@[simp] theorem withinSizes_acceptOp {sv : Service} {work : OpWork} {point : OpPoint} {s : State}
    (hs : s.lp.service.isSome = true) : WithinSizes (acceptOp sv work point s) ↔ WithinSizes s := by
  simp [acceptOp, hs]

theorem WithinSizes.unloaded {s : State} (h : WithinSizes s) : WithinSizes (s.setPl { s.pl with pageBuffer := [] }) :=
  h.setPl bufferSound_nil

theorem WithinSizes.commitDecision {s : State} (h : WithinSizes s) (hs : s.lp.service.isSome = true) (sv : Service)
    (slot page : Nat) (written : Bool) : WithinSizes (commitDecision sv slot page written s) := by
  unfold Machine.commitDecision
  split
  · simp [h, hs]
  · split
    · simp [h, hs]
    · rw [withinSizes_acceptOp (by simpa using hs)]
      exact h.unloaded

/-! ### Finished reads -/

theorem length_pageRoles (mem : List Host.Cell) (n i : Nat) : (pageRoles mem n i).length = n := by
  induction n generalizing i with
  | zero => rfl
  | succ n ih => rw [pageRoles, List.length_cons, ih]

theorem length_rolesOf {entries : List (Nat × Option Role)} {roles : List RoleEntry} (h : rolesOf entries = some roles) :
    roles.length = entries.length := by
  induction entries generalizing roles with
  | nil => cases h; rfl
  | cons e rest ih =>
    obtain ⟨n, _ | r⟩ := e
    · cases h
    · rw [rolesOf, Option.map_eq_some_iff] at h
      obtain ⟨t, ht, rfl⟩ := h
      rw [List.length_cons, List.length_cons, ih ht]

/-- The page's role table is one of counted entries, at most 8 (R171). -/
theorem length_roles_of_setupPage {mem : List Host.Cell} {new : Settings} (h : readSetupPage mem = .ok new) :
    new.roles.length ≤ 8 := by
  unfold readSetupPage at h
  dsimp only at h
  split at h
  · cases h
  · cases h
    show (Option.getD (α := List RoleEntry) _ _).length ≤ 8
    split
    · next hcount =>
      rw [Config.roleSize] at hcount
      cases hroles : rolesOf (pageRoles mem (arrayByte mem (setupBase + 27)).toNat 0) with
      | none => exact Nat.zero_le _
      | some roles =>
        show roles.length ≤ 8
        rw [length_rolesOf hroles, length_pageRoles]
        exact hcount
    · exact Nat.zero_le _

theorem WithinSizes.setupLoad {s : State} (h : WithinSizes s) : WithinSizes (setupLoad s) := by
  have hfollow : ∀ u : State, WithinSizes u → WithinSizes (followSettings u) := fun u hu => by
    unfold followSettings
    simp [withinSizes_iff] at hu ⊢
    exact hu
  unfold Machine.setupLoad
  refine hfollow _ ?_
  split
  · next hok => exact h.setSt (length_roles_of_setupPage hok)
  · exact h.setSt (show Settings.defaults.roles.length ≤ 8 by decide)

theorem WithinSizes.classified {s : State} (h : WithinSizes s) (found : List SlotEntry) (e : SlotEntry) :
    WithinSizes (classified found e s) := by
  unfold Machine.classified
  dsimp only
  split
  · simpa [scanNext] using h
  · unfold reachReady
    rw [withinSizes_announceState, withinSizes_iff]
    exact (withinSizes_iff s).1 h

theorem WithinSizes.scanWalk {s : State} (h : WithinSizes s) (found : List SlotEntry) (slot : Nat) (r : WalkResult) :
    WithinSizes (scanWalk found slot r s) := by
  unfold Machine.scanWalk
  split
  · simpa [scanNext] using h
  · exact h.classified ..
  · exact h.classified ..

theorem WithinSizes.scanRead {s : State} (h : WithinSizes s) (found : List SlotEntry) (r : ScanRead) :
    WithinSizes (scanRead found r s) := by
  have hnext : ∀ next, WithinSizes (scanNext next s) := fun _ => by simpa [scanNext] using h
  cases r with
  | setup => simpa [Machine.scanRead, scanNext] using h.setupLoad
  | page slot page =>
    simp only [Machine.scanRead]
    (repeat' split) <;> first | exact hnext _ | exact h.classified ..
  | mark slot =>
    simp only [Machine.scanRead]
    (repeat' split) <;> first | exact hnext _ | exact h.classified ..
  | header slot => exact h.scanWalk ..
  | segment slot w => exact h.scanWalk ..

theorem WithinSizes.closingRead {s : State} (h : WithinSizes s) : WithinSizes (closingRead s) := by
  unfold Machine.closingRead
  dsimp only
  (repeat' split) <;> simpa using h

theorem isSome_of_waiting {s : State} {p : ServicePhase} {sv : Service} (h : s.waitingService p = some sv) :
    s.lp.service.isSome = true := by
  rw [(waitingService_eq h).1]
  rfl

theorem WithinSizes.reloadRead {s : State} (h : WithinSizes s) : WithinSizes (reloadRead s) := by
  unfold Machine.reloadRead
  split
  · exact h
  · next sv hsv =>
    have hs := isSome_of_waiting hsv
    split
    · simp [reloadOutcome, h, hs]
    · next new hnew =>
      rw [withinSizes_answerThen (by exact hs), applyTravel, withinSizes_setQueue (List.length_map _)]
      refine WithinSizes.setSt ?_ (length_roles_of_setupPage hnew)
      simpa [reloadOutcome] using h

theorem WithinSizes.deliver {s : State} (h : WithinSizes s) (r : ReadFor) : WithinSizes (deliver r s) := by
  cases r with
  | expander slot index live => simp only [Machine.deliver, expanderRead]; split <;> simpa using h
  | closing => exact h.closingRead
  | written slot page =>
    simp only [Machine.deliver, writtenRead]
    split
    · next sv hsv => exact h.commitDecision (isSome_of_waiting hsv) ..
    · exact h
  | library slot page offset count =>
    simp only [Machine.deliver, libraryRead]
    split
    · next sv hsv => simpa [isSome_of_waiting hsv] using h
    · exact h
  | reload => exact h.reloadRead
  | scan r =>
    simp only [Machine.deliver]
    split
    · exact h.scanRead ..
    · exact h

/-! ### Run Control, the queue, the history and the Web Tracker -/

@[simp] theorem withinSizes_enterHalted (r : StateReason) (s : State) : WithinSizes (enterHalted r s) ↔ WithinSizes s := by
  simp [enterHalted]

@[simp] theorem withinSizes_leaveOrder (following : Option Order) (s : State) :
    WithinSizes (leaveOrder following s) ↔ WithinSizes s := by
  unfold leaveOrder; (repeat' split) <;> simp

@[simp] theorem withinSizes_startRun (s : State) : WithinSizes (startRun s) ↔ WithinSizes s := by
  simp [startRun, withinSizes_iff, Window.setCursors]

@[simp] theorem withinSizes_endRequested (s : State) : WithinSizes (endRequested s) ↔ WithinSizes s := by
  unfold endRequested; dsimp only; rw [withinSizes_settle]; split <;> simp

@[simp] theorem withinSizes_orderJoined (o : Order) (s : State) : WithinSizes (orderJoined o s) ↔ WithinSizes s := by
  unfold orderJoined; split <;> simp

@[simp] theorem withinSizes_spliceOverflow (s : State) : WithinSizes (spliceOverflow s) ↔ WithinSizes s := by
  unfold spliceOverflow; split <;> simp

@[simp] theorem withinSizes_markLate (s : State) : WithinSizes (markLate s) ↔ WithinSizes s := by
  unfold markLate; (repeat' split) <;> simp [length_updateOrder]

theorem WithinSizes.needleUp {s : State} (h : WithinSizes s) : WithinSizes (needleUp s) := by
  unfold Machine.needleUp
  split
  · simpa using h
  · simpa using h
  · simpa using h
  · unfold needleUpRun
    split
    · exact h.retire _
    · simpa using h
    · simpa using h
  · unfold needleUpHalting
    have hrc : ∀ rc, WithinSizes (s.setRc rc) := fun rc => (withinSizes_setRc s rc).2 h
    dsimp only
    split
    · exact (hrc _).retire _
    · simpa using h
    · simpa using h

theorem WithinSizes.cancelRemove {s : State} (h : WithinSizes s) (o : Order) : WithinSizes (cancelRemove o s) := by
  have hq : WithinSizes (s.setQueue (removeOrder s.queue o.tag)) :=
    h.setQueue (Nat.le_trans (length_removeOrder_le ..) h.queue)
  unfold Machine.cancelRemove
  dsimp only
  rw [withinSizes_settle]
  split
  · exact (withinSizes_leaveOrder ..).2 hq
  · exact hq

theorem WithinSizes.discard {s : State} (h : WithinSizes s) : WithinSizes (discard s) :=
  { h with ring := Nat.zero_le _ }

theorem WithinSizes.abortCopy {s : State} (h : WithinSizes s) (tag : Word16) (copy : Nat) :
    WithinSizes (abortCopy tag copy s) := by
  unfold Machine.abortCopy
  split
  · exact h
  · refine WithinSizes.announcePanelDone (.setQueue ?_ (Nat.le_trans (length_endCopy_le ..) h.queue)) ..
    rw [withinSizes_countRun]
    exact h

theorem WithinSizes.abortRun {s : State} (h : WithinSizes s) : WithinSizes (abortRun s) := by
  have hempty : WithinSizes ((Machine.discard s).setSw ((Machine.discard s).sw.setCursors (Machine.discard s).sw.counter)) :=
    h.discard.setSw (Nat.zero_le _)
  unfold Machine.abortRun
  dsimp only
  rw [withinSizes_portNext, withinSizes_enterRunState, withinSizes_setRc, withinSizes_abortExpander,
    withinSizes_setQueue (List.length_map _)]
  split
  · exact hempty.abortCopy ..
  · exact hempty

theorem length_placeReplay_le (w : Window) (hw : w.ring = []) (reposition : Record) (replay : List Record) :
    (w.placeReplay reposition replay).ring.length ≤ 16 :=
  length_joinWaiting_le (by simp [Window.join, hw])

theorem length_countRewind (note : Option (Word16 × Nat)) (queue : List Order) :
    (countRewind note queue).length = queue.length := by
  unfold countRewind
  split
  · rfl
  · exact length_updateOrder ..

theorem WithinSizes.backstitch {s : State} (h : WithinSizes s) (reposition : Record) (replay : List Record) :
    WithinSizes (backstitch reposition replay s) := by
  unfold Machine.backstitch
  dsimp only
  rw [withinSizes_announceState, withinSizes_setQueue (length_countRewind ..), withinSizes_settle]
  refine WithinSizes.setSw ?_ (length_placeReplay_le _ ?_ ..)
  · rw [withinSizes_rollback]; exact h.discard
  · rw [rollback_sw]; rfl

/-- A record joins where the expander finds a place for it (R56). -/
theorem WithinSizes.appendRecord {s : State} (h : WithinSizes s) (m : Making) (tag : Word16) (copy : Nat)
    (first last closing : Bool) (hready : readyState closing s = .expanding) :
    WithinSizes (appendRecord m tag copy first last s) := by
  have hplace : s.sw.ring.length < 16 := by
    unfold readyState at hready
    split at hready
    · cases hready
    · split at hready
      · cases hready
      · next hfull =>
        simp only [Window.full, Bool.or_eq_true, decide_eq_true_eq, not_or, Nat.not_le] at hfull
        exact hfull.1
  have hzones : (s.reserve tag copy s.sw.counter).zones = s.wt.zones := by
    unfold State.reserve; split <;> rfl
  have hjoined : WithinSizes (s.setSw (s.sw.join (m.toRecord tag copy first last))) :=
    h.setSw (by simp only [Window.join, List.length_append, List.length_singleton]; omega)
  unfold Machine.appendRecord
  dsimp only
  rw [withinSizes_setSx]
  refine hjoined.setWt ?_
  split
  · rw [hzones]; exact h.zones
  · exact h.zones

/-! ### Settings -/

theorem roles_store (st : Settings) (code : Byte) (v : Nat) : (st.store code v).roles = st.roles := by
  unfold Settings.store; split <;> rfl

@[simp] theorem withinSizes_applyTravel (s : State) : WithinSizes (applyTravel s) ↔ WithinSizes s :=
  withinSizes_setQueue (List.length_map _)

theorem WithinSizes.storeSetting {s : State} (h : WithinSizes s) (hs : s.lp.service.isSome = true) (sv : Service)
    (code : Byte) (width v : Nat) : WithinSizes (storeSetting sv code width v s) := by
  have hstored : WithinSizes (s.setSt { s.st with working := s.st.working.store code v }) :=
    h.setSt (by rw [roles_store]; exact h.roles)
  unfold Machine.storeSetting
  dsimp only
  by_cases hc : code = 4
  · rw [if_pos hc, withinSizes_answerThen (by exact hs), withinSizes_applyTravel]; exact hstored
  · rw [if_neg hc, withinSizes_answerThen (by exact hs)]; exact hstored

/-- A role set for a node of the table, or where the table has room, leaves it within its size (R170). -/
theorem length_setRoleTable_le {roles : List RoleEntry} {node : Nat} {given : Option Role} (h : roles.length ≤ 8)
    (hroom : (given.isSome && (roleOfNode roles node).isNone && decide (Config.roleSize ≤ roles.length)) = false) :
    (setRoleTable roles node given).length ≤ 8 := by
  unfold setRoleTable
  split
  · exact Nat.le_trans (List.length_filter_le ..) h
  · next r =>
    split
    · rw [List.length_map]; exact h
    · next hnone =>
      have habsent : (roleOfNode roles node).isNone = true := by
        rw [roleOfNode, Option.isNone_map, Option.isNone_iff_eq_none, List.find?_eq_none]
        simpa using hnone
      simp only [Option.isSome_some, habsent, Bool.true_and, decide_eq_false_iff_not, Nat.not_le] at hroom
      rw [List.length_append]
      exact hroom

/-! ### Takes -/

/-- A served take changes records of the ring, not their number. -/
theorem length_update (w : Window) (serial : Word32) (f : Record → Record) :
    (w.update serial f).ring.length = w.ring.length := List.length_map _

theorem length_advanceCursor (w : Window) (d : Drive) : (w.advanceCursor d).ring.length = w.ring.length := by
  cases d <;> rfl

theorem WithinSizes.take {s : State} (h : WithinSizes s) (hs : s.lp.service.isSome = true) (d : Drive) (serial : Word32)
    (sv : Service) : WithinSizes (take d serial sv s) := by
  unfold Machine.take
  (repeat' split) <;> simp [h, hs, length_update, length_advanceCursor]

/-! ### The request in service stays until its answer -/

@[simp] theorem startRun_lp_service (s : State) : (startRun s).lp.service = s.lp.service := by simp [startRun]
@[simp] theorem enterHalted_lp_service (r : StateReason) (s : State) :
    (enterHalted r s).lp.service = s.lp.service := by simp [enterHalted]
@[simp] theorem endRequested_lp_service (s : State) : (endRequested s).lp.service = s.lp.service := by
  unfold endRequested; dsimp only; split <;> simp
@[simp] theorem orderJoined_lp_service (o : Order) (s : State) : (orderJoined o s).lp.service = s.lp.service := by
  unfold orderJoined; split <;> simp
@[simp] theorem spliceOverflow_lp_service (s : State) : (spliceOverflow s).lp.service = s.lp.service := by
  unfold spliceOverflow; split <;> simp
@[simp] theorem markLate_lp (s : State) : (markLate s).lp = s.lp := by
  unfold markLate; (repeat' split) <;> simp

@[simp] theorem abortRun_lp_service (s : State) : (abortRun s).lp.service = s.lp.service := by
  unfold abortRun abortCopy; dsimp only; (repeat' split) <;> simp

@[simp] theorem cancelRemove_lp_service (o : Order) (s : State) : (cancelRemove o s).lp.service = s.lp.service := by
  unfold cancelRemove leaveOrder; dsimp only; (repeat' split) <;> simp

@[simp] theorem backstitch_lp_service (reposition : Record) (replay : List Record) (s : State) :
    (backstitch reposition replay s).lp.service = s.lp.service := by
  simp [backstitch]

/-! ### Every command -/

theorem withinSizes_held (pins : Pins) (array : List Host.Cell) (pending : List Instr) :
    WithinSizes (State.held pins array pending) := by
  simp [withinSizes_iff, State.held, Window.afterReset, Groups.afterReset, Web.afterReset, LinePort.afterReset,
    Library.afterReset, Settings.defaults, bufferSound_nil]

theorem withinSizes_startUp (array : List Host.Cell) (pending : List Instr) :
    WithinSizes (State.startUp array pending) :=
  (withinSizes_setPort _ _).2 (withinSizes_held ..)

theorem WithinSizes.partReset {s : State} (h : WithinSizes s) : WithinSizes s.partReset := by
  simp [withinSizes_iff, State.partReset, Window.afterReset, Groups.afterReset, Web.afterReset, LinePort.afterReset,
    Library.afterReset, bufferSound_nil, h.roles]

/-- The array's reports change nothing of what is loaded or queued. -/
theorem WithinSizes.stepEnded {s : State} (h : WithinSizes s) (array : List Host.Cell) (o : Op) (step : ArrayStep)
    (good expired : Bool) :
    WithinSizes (portNext (s.setPl (({ s.pl with array := array } : Library).stepEnded o step good expired))) := by
  rw [withinSizes_portNext]
  exact (withinSizes_setPl (by rw [stepEnded_pageBuffer])).2 h

theorem exec_withinSizes (c : Instr) {s : State} (h : WithinSizes s) : Leaves (exec c s) WithinSizes := by
  have request : ∀ {c : Instr} {own : Service → State → State}, (∀ sv s', WithinSizes s' → s'.lp.service.isSome = true →
      WithinSizes (own sv s')) → WithinSizes (takeRequest c own s) := fun hown =>
    h.takeRequest fun sv s' h' hserving => hown sv s' h' (by rw [hserving.2.1]; rfl)
  have line : ∀ lp : LinePort, lp.Within → WithinSizes (s.setLp lp) := fun lp hlp => h.setLp hlp.1 hlp.2
  cases c with
  | powerOn => exact ⟨_, rfl, by split; exacts [withinSizes_held .., withinSizes_startUp ..]⟩
  | powerOff | resetnAssert => exact ⟨_, rfl, withinSizes_held ..⟩
  | resetnRelease => exact ⟨_, rfl, by split; exacts [withinSizes_startUp .., (withinSizes_setPins ..).2 h]⟩
  | needleUp us => exact ⟨_, rfl, whenReady_keeps h fun _ => by split; exacts [h.needleUp, h]⟩
  | holdSeenChange asserted us =>
    refine ⟨_, rfl, whenReady_keeps h fun _ => ?_⟩
    unfold holdSeen
    dsimp only
    (repeat' split) <;> simpa using h
  | stopSilenceExpiry => exact ⟨_, rfl, whenReady_keeps h fun _ => by split <;> simpa using h⟩
  | resumeSettleEnd =>
    refine ⟨_, rfl, whenReady_keeps h fun _ => ?_⟩
    split
    · next sv hsv =>
      have hs := isSome_of_waiting hsv
      unfold resumeSettled
      (repeat' split) <;> simpa [hs] using h
    · exact h
  | expansionEvent =>
    refine ⟨_, rfl, whenReady_keeps h fun _ => ?_⟩
    split
    · split
      · rw [withinSizes_settle]; exact h.appendRecord _ _ _ _ _ _ ‹_›
      · exact h
    · exact h
  | programStepComplete step failed =>
    refine ⟨_, rfl, whenPowered_keeps h fun _ => ?_⟩
    split
    · split
      · exact h.stepEnded ..
      · exact h
    · exact h
  | eraseComplete residue =>
    refine ⟨_, rfl, whenPowered_keeps h fun _ => ?_⟩
    split
    · split
      · exact h.stepEnded ..
      · exact h
    · exact h
  | boundExpiry left =>
    refine ⟨_, rfl, whenPowered_keeps h fun _ => ?_⟩
    split
    · exact h.stepEnded ..
    · exact h
  | progressIntervalEnd =>
    refine ⟨_, rfl, whenPowered_keeps h fun _ => ?_⟩
    (repeat' split) <;> simpa using h
  | readComplete =>
    refine ⟨_, rfl, whenPowered_keeps h fun _ => ?_⟩
    split
    · exact h
    · rw [withinSizes_settle]
      exact ((withinSizes_setPort ..).2 h).deliver _
  | inboundFrame w | frameNotForPart w => exact ⟨_, rfl, whenReady_keeps h fun _ => line _ (within_receive h.line w)⟩
  | notAStartMark m => exact ⟨_, rfl, whenReady_keeps h fun _ => by split; exacts [line _ h.line, h]⟩
  | lineIdle ns => exact ⟨_, rfl, whenReady_keeps h fun _ => line _ (within_idleFor h.line ns)⟩
  | frameStart => exact ⟨_, rfl, whenReady_keeps h fun _ => line _ (within_startFrame h.line)⟩
  | frameDelivered w | arbitrationLost w | errorAbort w =>
    exact ⟨_, rfl, whenReady_keeps h fun _ => line _ (within_endAttempt h.line w)⟩
  | frameHandOn =>
    refine ⟨_, rfl, whenReady_keeps h fun _ => ?_⟩
    split
    · exact h
    · next r rest hin =>
      split
      · next hc =>
        have hrest : rest.length ≤ 4 := by
          have hlen := h.inbound
          rw [hin, List.length_cons] at hlen
          omega
        exact (h.setLp (x := { s.lp with inbound := rest }) hrest h.general).handOn r hc
      · exact h
  | resetPartApply =>
    refine ⟨_, rfl, whenReady_keeps h fun _ => ?_⟩
    split
    · rw [withinSizes_announceState]; exact h.partReset
    · exact h
  | loadBuffer src offset data =>
    refine ⟨_, rfl, request fun sv s' h' hs => ?_⟩
    split
    · simpa [hs] using h'
    · dsimp only
      rw [withinSizes_answer (by exact hs)]
      exact h'.setPl (h'.buffer.loadCells ..)
  | clearBuffer src =>
    refine ⟨_, rfl, request fun sv s' h' hs => ?_⟩
    rw [withinSizes_answer (by exact hs)]
    exact h'.unloaded
  | commitPage src slot page =>
    refine ⟨_, rfl, request fun sv s' h' hs => ?_⟩
    (repeat' split) <;> first | exact h'.commitDecision hs .. | simpa [hs] using h'
  | enqueue =>
    refine ⟨_, rfl, request fun sv s' h' hs => ?_⟩
    split
    · simpa [hs] using h'
    · split
      · simpa [hs] using h'
      · next hfree =>
        have hjoins : ∀ o : Order, WithinSizes (s'.setQueue (s'.queue ++ [o])) := fun o =>
          h'.setQueue (by rw [List.length_append]; exact Nat.lt_of_not_le hfree)
        (repeat' split) <;> first | simpa [hs] using h' | simpa [hs] using hjoins _
  | cancel src tag =>
    refine ⟨_, rfl, request fun sv s' h' hs => ?_⟩
    (repeat' split)
    · simpa [hs] using h'
    · simpa [hs, length_updateOrder] using h'
    · simpa [hs] using h'.cancelRemove _
  | reportMoved src serial =>
    refine ⟨_, rfl, request fun sv s' h' hs => ?_⟩
    have hmoved : ∀ r : Record, WithinSizes (s'.setSw (s'.sw.update serial fun _ => r)) := fun r =>
      (withinSizes_setSw (length_update ..)).2 h'
    dsimp only
    (repeat' split)
    · simpa [hs] using h'
    · simpa [hs] using h'
    · simpa [hs] using h'
    · simpa [hs] using h'
    · simpa [hs] using (hmoved _).retireReposition _
    · simpa [hs] using hmoved _
  | abort src =>
    refine ⟨_, rfl, request fun sv s' h' hs => ?_⟩
    split
    · simpa [hs] using h'
    · simpa [hs] using h'.abortRun
  | backstitch src n =>
    refine ⟨_, rfl, request fun sv s' h' hs => ?_⟩
    dsimp only
    (repeat' split) <;> first | simpa [hs] using h'.backstitch .. | simpa [hs] using h'
  | takeHead src serial | takeFeed src serial =>
    refine ⟨_, rfl, request fun sv s' h' hs => ?_⟩
    exact h'.take hs ..
  | reportSplice src web =>
    refine ⟨_, rfl, request fun sv s' h' hs => ?_⟩
    split
    · simpa [hs] using h'
    · split
      · simpa [hs] using h'
      · next hfree =>
        have hzone : ∀ z : Zone, WithinSizes (s'.setWt { s'.wt with zones := s'.wt.zones ++ [z] }) := fun z =>
          h'.setWt (by rw [List.length_append]; exact Nat.lt_of_not_le hfree)
        dsimp only
        (repeat' split) <;> simpa [hs] using hzone _
  | setSetting src code value =>
    refine ⟨_, rfl, request fun sv s' h' hs => ?_⟩
    dsimp only
    (repeat' split) <;> first | exact h'.storeSetting hs .. | simpa [hs] using h'
  | setRole src node role =>
    refine ⟨_, rfl, request fun sv s' h' hs => ?_⟩
    dsimp only
    (repeat' split)
    · simpa [hs] using h'
    · simpa [hs] using h'
    · simpa [hs] using h'
    · simpa [hs] using h'
    · simpa [hs] using h'
    · next hroom =>
      rw [withinSizes_answer (by exact hs)]
      exact h'.setSt (length_setRoleTable_le h'.roles (by simpa using hroom))
  | clearCounters src =>
    refine ⟨_, rfl, request fun sv s' h' hs => ?_⟩
    rw [withinSizes_answer (by exact hs)]
    exact ((withinSizes_setRc ..).2 h').setLp h'.inbound h'.general
  | resetPart src =>
    refine ⟨_, rfl, request fun sv s' h' hs => ?_⟩
    split
    · simpa [hs] using h'
    · split
      · simpa [hs] using h'
      · have hanswered := (withinSizes_answerThen (sv := sv) (st := .ok) (ps := [])
          (a := { AfterFrame.none with reset := true }) hs).2 h'
        exact hanswered.setLp hanswered.inbound hanswered.general
  | reportBreak src groups =>
    refine ⟨_, rfl, request fun sv s' h' hs => ?_⟩
    dsimp only
    (repeat' split) <;> simpa [hs] using h'
  | eraseSlot | closeSlot | readLibrary | readOutcome | readQueue
  | readOrder | start | stop | endRun | resume | clearCauses | reportStopped | readStatus
  | readCounters | reportMended | park | unpark | readHistory | cutQuery | cutDone | writeSetup
  | reloadSetup | readSetting | readTable =>
    refine ⟨_, rfl, request fun sv s' h' hs => ?_⟩
    (repeat' split) <;> simpa [hs] using h'

/-- Settles O14: a step idles, or executes its front command, which keeps the sizes. -/
theorem listsStayWithinSizes : Obligations.ListsStayWithinSizes := by
  intro s t h hstep
  unfold step at hstep
  split at hstep
  · cases hstep
    exact h
  · next c rest _ =>
    obtain ⟨u, hu, hkept⟩ := exec_withinSizes c ((withinSizes_setPending s rest).2 h)
    rw [hu] at hstep
    cases hstep
    exact hkept

end Sys2Proof.Machine
end

section
/-! SUPPORT. The library requests: the page buffer's, and what the tests of each operation and read lead to. -/

namespace Sys2Proof.Machine

/-- A request in service does what its owner's step comes to. -/
theorem next_of_serving {c : Instr} {s t : State} {sv : Service} (h : Serving s sv c) {own : Service → State → State}
    (ht : own sv s = t) : Host.Outcome.next (takeRequest c own s) = (.next t : Host.Outcome State Fault Refusal) := by
  rw [takeRequest_serving h, ht]

/-! ### The page buffer -/

/-- Settles O35. -/
theorem clearBufferUnloads : Obligations.ClearBufferUnloads := fun _ _ _ h => next_of_serving h rfl

/-- What an offset reads after a loading: the byte loaded for it, or what was loaded there before. -/
theorem cellAt_loadCells (buffer : List Host.Cell) (offset : Byte) (data : List Byte) (hlen : data.length ≤ 256) :
    (∀ i, i < data.length → cellAt (loadCells buffer offset data) ((offset.toNat + i) % 256) = data[i]?) ∧
      ∀ o, (∀ i, i < data.length → o ≠ (offset.toNat + i) % 256) →
        cellAt (loadCells buffer offset data) o = cellAt buffer o := by
  induction data generalizing buffer offset with
  | nil => exact ⟨fun i hi => absurd hi (Nat.not_lt_zero i), fun _ _ => rfl⟩
  | cons b rest ih =>
    rw [List.length_cons] at hlen
    obtain ⟨hloaded, hother⟩ := ih (setCell buffer offset.toNat b) (offset + 1) (by omega)
    have hshift : ∀ i, ((offset + 1).toNat + i) % 256 = (offset.toNat + (i + 1)) % 256 := fun i => by
      rw [BitVec.toNat_add, show (1 : Byte).toNat = 1 from rfl]; omega
    refine ⟨fun i hi => ?_, fun o ho => ?_⟩
    · rw [loadCells]
      cases i with
      | zero =>
        have hoff : (offset.toNat + 0) % 256 = offset.toNat := Nat.mod_eq_of_lt offset.isLt
        rw [hoff, hother _ fun i hi => by rw [hshift]; have := offset.isLt; omega, cellAt_setCell, if_pos rfl]
        rfl
      | succ i =>
        rw [← hshift, hloaded i (by rw [List.length_cons] at hi; omega)]
        rfl
    · have hoff : offset.toNat ≠ o := fun e => ho 0 (Nat.succ_pos _) (by
        rw [← e]; exact (Nat.mod_eq_of_lt offset.isLt).symm)
      rw [loadCells, hother o fun i hi => by rw [hshift]; exact ho (i + 1) (Nat.succ_lt_succ hi), cellAt_setCell,
        if_neg hoff]

/-- Settles O34, by what each offset reads after the loading. -/
theorem loadBufferLoads : Obligations.LoadBufferLoads := by
  intro s sv src offset data h
  refine ⟨fun h1 h20 => ⟨loadCells s.pl.pageBuffer offset data, next_of_serving h (if_neg (by omega)), ?_⟩,
    fun hbad => next_of_serving h (if_pos hbad)⟩
  exact cellAt_loadCells _ _ _ (by omega)

/-! ### The last tests of COMMIT PAGE -/

section
variable (sv : Service) (slot page : Nat) (s : State)

theorem commitDecision_written : commitDecision sv slot page true s = answer sv .written [] s := if_pos rfl

theorem commitDecision_empty (h : s.pl.pageBuffer = []) : commitDecision sv slot page false s = answer sv .empty [] s :=
  (if_neg (by decide)).trans (if_pos h)

theorem commitDecision_accepted {first : ArrayStep} (h : s.pl.pageBuffer ≠ [])
    (hf : (if tableEntry s.pl.table slot = some .empty then ArrayStep.openedMark else ArrayStep.pageData) = first) :
    commitDecision sv slot page false s =
      acceptOp sv (.commit slot page s.pl.pageBuffer) (.stepping first) (s.setPl { s.pl with pageBuffer := [] }) := by
  subst hf
  exact (if_neg (by decide)).trans (if_neg h)

end

/-! ### The tests of COMMIT PAGE -/

/-- The tests of R22 that come before the slot's state have passed. -/
structure OperationTested (s : State) (slot : Byte) : Prop where
  op : s.pl.op = none
  inRange : slot.toNat ≤ 31
  unprotected : hasBit s.st.working.protect slot.toNat = false
  unused : slotInUse s.queue slot.toNat = false

/-- A byte is loaded for the area that COMMIT PAGE does not program (R23). -/
def ReservedLoaded (page : Byte) (buffer : List Host.Cell) : Prop := page = 0 ∧ ∃ c ∈ buffer, 16 ≤ c.1 ∧ c.1 ≤ 31

theorem reservedLoaded_iff (page : Byte) (buffer : List Host.Cell) :
    (page = 0 ∧ (buffer.any fun c => decide (16 ≤ c.1) && decide (c.1 ≤ 31)) = true) ↔ ReservedLoaded page buffer := by
  simp [ReservedLoaded]

theorem not_reservedLoaded {page : Byte} {buffer : List Host.Cell} (h : page = 0 → ∀ c ∈ buffer, c.1 < 16 ∨ 31 < c.1) :
    ¬ ReservedLoaded page buffer := fun ⟨hp, c, hc, hlo, hhi⟩ => by
  have := h hp c hc
  omega

/-- Where the first four tests pass, what follows them decides. -/
theorem tests_passed {busy range prot use : Prop} [Decidable busy] [Decidable range] [Decidable prot] [Decidable use]
    {t1 t2 t3 t4 t u : State} (h1 : ¬ busy) (h2 : ¬ range) (h3 : ¬ prot) (h4 : ¬ use) (ht : t = u) :
    (if busy then t1 else if range then t2 else if prot then t3 else if use then t4 else t) = u :=
  (if_neg h1).trans ((if_neg h2).trans ((if_neg h3).trans ((if_neg h4).trans ht)))

section
variable {s : State} {sv : Service} {src : NodeId} {slot page : Byte}

/-- COMMIT PAGE, the first tests passed, does what the slot's state and the loaded offsets lead to. -/
theorem exec_commitPage_tested (h : Serving s sv (.commitPage src slot page)) (ht : OperationTested s slot)
    (hpage : page.toNat ≤ 15) :
    (ReservedLoaded page s.pl.pageBuffer →
      tableEntry s.pl.table slot.toNat = some .empty ∨ tableEntry s.pl.table slot.toNat = some .opened →
      exec (.commitPage src slot page) s = .next (answer sv .reservedArea [] s)) ∧
    (¬ ReservedLoaded page s.pl.pageBuffer →
      (tableEntry s.pl.table slot.toNat = some .empty →
        exec (.commitPage src slot page) s = .next (commitDecision sv slot.toNat page.toNat false s)) ∧
      (tableEntry s.pl.table slot.toNat = some .opened →
        exec (.commitPage src slot page) s =
          .next (portNext ((s.setPort { s.pl.port with line := some (.written slot.toNat page.toNat) }).serviceWaits sv
            .written)))) ∧
    (tableEntry s.pl.table slot.toNat ≠ some .empty → tableEntry s.pl.table slot.toNat ≠ some .opened →
      exec (.commitPage src slot page) s = .next (answer sv .refusedState [] s)) := by
  obtain ⟨hop, hslot, hprot, huse⟩ := ht
  have hidle : ¬ s.pl.op.isSome = true := by simp [hop]
  have hrange : ¬ (31 < slot.toNat ∨ 15 < page.toNat) := by omega
  have hopen : ¬ hasBit s.st.working.protect slot.toNat = true := by simp [hprot]
  have hfree : ¬ slotInUse s.queue slot.toNat = true := by simp [huse]
  refine ⟨fun hr he => ?_, fun hr => ⟨fun he => ?_, fun he => ?_⟩, fun hne hno => ?_⟩
  · refine next_of_serving h (tests_passed hidle hrange hopen hfree ?_)
    rcases he with he | he <;> rw [he] <;> exact if_pos ((reservedLoaded_iff ..).2 hr)
  · refine next_of_serving h (tests_passed hidle hrange hopen hfree ?_)
    rw [he]
    exact if_neg fun hc => hr ((reservedLoaded_iff ..).1 hc)
  · refine next_of_serving h (tests_passed hidle hrange hopen hfree ?_)
    rw [he]
    exact if_neg fun hc => hr ((reservedLoaded_iff ..).1 hc)
  · refine next_of_serving h (tests_passed hidle hrange hopen hfree ?_)
    split
    · exact absurd ‹_› hne
    · exact absurd ‹_› hno
    · rfl

end

/-! ### Refusals -/

/-- Settles O37: each request is refused by the first of its tests that fails. -/
theorem libraryRequestsAreRefused : Obligations.LibraryRequestsAreRefused := by
  refine ⟨fun s sv src slot page offset count hop => ?busy, fun s sv src hst => ?setup,
    fun s sv src slot page offset count hop => ?range, fun s sv src slot page hop hslot hpage => ?slots,
    fun s sv src slot page hop hslot hpage hprot huse h => ?commit⟩
  case busy =>
    exact ⟨fun h => next_of_serving h (if_pos hop), fun h => next_of_serving h (if_pos hop),
      fun h => next_of_serving h (if_pos hop), fun h => next_of_serving h (if_pos hop), fun hst =>
      ⟨fun h => next_of_serving h ((if_neg (by simp [hst])).trans (if_pos hop)),
        fun h => next_of_serving h ((if_neg (by simp [hst])).trans (if_pos hop))⟩⟩
  case setup => exact ⟨fun h => next_of_serving h (if_pos hst), fun h => next_of_serving h (if_pos hst)⟩
  case range =>
    have hidle : ¬ s.pl.op.isSome = true := by simp [hop]
    exact ⟨fun h hbad => next_of_serving h ((if_neg hidle).trans (if_pos hbad)),
      fun h hbad => next_of_serving h ((if_neg hidle).trans (if_pos hbad)),
      fun h hbad => next_of_serving h ((if_neg hidle).trans (if_pos hbad)),
      fun h hbad => next_of_serving h ((if_neg hidle).trans (if_pos hbad))⟩
  case slots =>
    have hidle : ¬ s.pl.op.isSome = true := by simp [hop]
    have hcommit : ¬ (31 < slot.toNat ∨ 15 < page.toNat) := by omega
    have hrange : ¬ 31 < slot.toNat := by omega
    refine ⟨fun hprot => ⟨fun h => ?_, fun h => ?_, fun h => ?_⟩, fun hprot => ?_⟩
    · exact next_of_serving h ((if_neg hidle).trans ((if_neg hcommit).trans (if_pos hprot)))
    · exact next_of_serving h ((if_neg hidle).trans ((if_neg hrange).trans (if_pos hprot)))
    · exact next_of_serving h ((if_neg hidle).trans ((if_neg hrange).trans (if_pos hprot)))
    · have hopen : ¬ hasBit s.st.working.protect slot.toNat = true := by simp [hprot]
      refine ⟨fun huse => ⟨fun h => ?_, fun h => ?_⟩, fun he h => ?_⟩
      · exact next_of_serving h ((if_neg hidle).trans ((if_neg hcommit).trans ((if_neg hopen).trans (if_pos huse))))
      · exact next_of_serving h ((if_neg hidle).trans ((if_neg hrange).trans ((if_neg hopen).trans (if_pos huse))))
      · exact next_of_serving h ((if_neg hidle).trans ((if_neg hrange).trans ((if_neg hopen).trans (if_pos he))))
  case commit =>
    obtain ⟨hreserved, hdecide, hother⟩ := exec_commitPage_tested h ⟨hop, hslot, hprot, huse⟩ hpage
    refine ⟨hother, fun he hp hr => hreserved ⟨hp, hr⟩ he, fun he hempty => ?_⟩
    have hnone : ¬ ReservedLoaded page s.pl.pageBuffer := by simp [ReservedLoaded, hempty]
    rw [(hdecide hnone).1 he, commitDecision_empty _ _ _ _ hempty]

/-! ### Operations accepted -/

section
variable (sv : Service) (work : OpWork) (point : OpPoint) (s : State)

/-- An accepted operation stands at its first step, whatever waits at the port. -/
@[simp] theorem acceptOp_op : (acceptOp sv work point s).pl.op.map (fun o => (o.work, o.point)) = some (work, point) := by
  rw [acceptOp, portNext_op]; rfl
@[simp] theorem acceptOp_failFlag : (acceptOp sv work point s).pl.failFlag = false := by simp [acceptOp]
@[simp] theorem acceptOp_lp : (acceptOp sv work point s).lp = (answer sv .ok [] s).lp := by simp [acceptOp, answer_lp]
@[simp] theorem acceptOp_table : (acceptOp sv work point s).pl.table = s.pl.table := by simp [acceptOp]
@[simp] theorem acceptOp_pageBuffer : (acceptOp sv work point s).pl.pageBuffer = s.pl.pageBuffer := by simp [acceptOp]
@[simp] theorem acceptOp_st : (acceptOp sv work point s).st = s.st := by simp [acceptOp]

end

/-- The mark VOID is written over every mark but itself (R10). -/
theorem markProgrammed_void (m : Byte) : markProgrammed m markVoid = true ↔ m ≠ 0x00 := by
  have hvoid : markRank markVoid = some 3 := rfl
  unfold markProgrammed
  rw [hvoid]
  unfold markRank
  by_cases h0 : m = blankByte
  · subst h0; decide
  rw [if_neg h0]
  by_cases h1 : m = markOpened
  · subst h1; decide
  rw [if_neg h1]
  by_cases h2 : m = markClosed
  · subst h2; decide
  rw [if_neg h2]
  by_cases h3 : m = markVoid
  · subst h3; decide
  · rw [if_neg h3]
    exact iff_of_true rfl h3

/-- With the port quiet and no operation in hand a line request's read is put in flight at once (R32). -/
theorem portNext_line {s : State} (hop : s.pl.op = none) (hport : s.pl.port = .quiet) (r : ReadFor) (sv : Service)
    (phase : ServicePhase) :
    portNext ((s.setPort { s.pl.port with line := some r }).serviceWaits sv phase) =
      (s.setPort { Port.quiet with inFlight := some r }).serviceWaits sv phase := by
  rw [hport]
  unfold portNext
  simp [hop, Port.quiet, Port.choose]
  rfl

/-- Settles O36: the operations by what an acceptance leaves, the reads by the port's choice of the only read that waits. -/
theorem operationsAreAccepted : Obligations.OperationsAreAccepted := by
  refine ⟨fun s sv src slot page hop hslot hpage hprot huse => ?slots, fun s sv src hop h hst => ?setup,
    fun s sv src slot page offset count hop hport => ?reads⟩
  case slots =>
    have hidle : ¬ s.pl.op.isSome = true := by simp [hop]
    have hrange : ¬ 31 < slot.toNat := by omega
    have hopen : ¬ hasBit s.st.working.protect slot.toNat = true := by simp [hprot]
    have hfree : ¬ slotInUse s.queue slot.toNat = true := by simp [huse]
    refine ⟨fun h he hload hr => ?commit, fun h he => ?eraseEmpty, fun h he => ?erase, fun h he => ?close⟩
    case commit =>
      obtain ⟨-, hdecide, -⟩ := exec_commitPage_tested h ⟨hop, hslot, hprot, huse⟩ hpage
      refine ⟨_, (hdecide (not_reservedLoaded hr)).1 he, ?_⟩
      rw [commitDecision_accepted _ _ _ _ hload (if_pos he)]
      exact ⟨acceptOp_op .., acceptOp_pageBuffer .., acceptOp_failFlag .., acceptOp_lp .., acceptOp_table ..,
        acceptOp_array ..⟩
    case eraseEmpty =>
      exact ⟨_, next_of_serving h (tests_passed hidle hrange hopen hfree (if_pos he)), acceptOp_op .., acceptOp_failFlag ..,
        acceptOp_lp .., acceptOp_table .., acceptOp_array ..⟩
    case erase =>
      refine ⟨_, next_of_serving h (tests_passed hidle hrange hopen hfree (if_neg he)), ?_, acceptOp_failFlag ..,
        acceptOp_lp .., acceptOp_table .., acceptOp_array ..⟩
      rw [acceptOp_op]
      simp only [markProgrammed_void, ne_eq, ite_not]
    case close =>
      exact ⟨_, next_of_serving h ((if_neg hidle).trans ((if_neg hrange).trans ((if_neg hopen).trans
        (if_neg (not_not.2 he))))), acceptOp_op .., acceptOp_failFlag .., acceptOp_lp .., acceptOp_table .., acceptOp_array ..⟩
  case setup =>
    exact ⟨_, next_of_serving h ((if_neg (not_not.2 hst)).trans (if_neg (by simp [hop]))), acceptOp_op ..,
      acceptOp_failFlag .., acceptOp_lp .., acceptOp_st .., acceptOp_array ..⟩
  case reads =>
    have hidle : ¬ s.pl.op.isSome = true := by simp [hop]
    refine ⟨fun h hslot hpage hprot huse he hr => ?opened, fun h hslot hpage hlo hhi => ?bytes, fun h hst => ?setupPage⟩
    case opened =>
      obtain ⟨-, hdecide, -⟩ := exec_commitPage_tested h ⟨hop, hslot, hprot, huse⟩ hpage
      rw [(hdecide (not_reservedLoaded hr)).2 he, portNext_line hop hport]
    case bytes =>
      rw [← portNext_line hop hport]
      exact next_of_serving h ((if_neg hidle).trans (if_neg (by omega)))
    case setupPage =>
      rw [← portNext_line hop hport]
      exact next_of_serving h ((if_neg (not_not.2 hst)).trans (if_neg hidle))

end Sys2Proof.Machine
end

section
/-! SUPPORT. The reads that READ LIBRARY, COMMIT PAGE and RELOAD SETUP wait for. -/

namespace Sys2Proof.Machine

theorem waitingService_of {s : State} {sv : Service} {p : ServicePhase} (h : s.lp.service = some sv) (hp : sv.phase = p) :
    s.waitingService p = some sv := by
  rw [State.waitingService, h, Option.filter_some, if_pos (by simp [hp])]

/-- The bytes come from the offset on, the one after the slot's last being its first (R35). -/
theorem libraryBytes_eq (mem : List Host.Cell) (slot page offset count : Nat) :
    libraryBytes mem slot page offset count =
      (List.range count).map fun i => arrayByte mem (slotBase slot + (page * 256 + offset + i) % 4096) := by
  induction count generalizing offset with
  | zero => rfl
  | succ n ih =>
    rw [libraryBytes, ih, List.range_succ_eq_map, List.map_cons, List.map_map]
    simp only [Config.pageBytes, Config.slotBytes, Nat.add_zero, Function.comp_def, Nat.succ_eq_add_one, Nat.add_assoc,
      Nat.add_comm 1]

/-! ### What an answer and a commit's last tests leave, once what follows at once has come about -/

section
variable (sv : Service) (st : Status) (ps : List Byte) (a : AfterFrame) (s : State)

theorem settle_answerThen_lp :
    (settle (answerThen sv st ps a s)).lp.service = none ∧
      (settle (answerThen sv st ps a s)).lp.general =
        s.lp.general ++ [⟨sv.node, .answer, st.code, ps, answerPriority (some sv.role), 0, a⟩] := by
  rw [settle_lp_service, settle_lp_general, answerThen_lp]
  exact ⟨rfl, rfl⟩

end

section
variable (sv : Service) (slot page : Nat) (s : State)

theorem commitDecision_keeps (written : Bool) :
    (commitDecision sv slot page written s).lp.service = none ∧
      (commitDecision sv slot page written s).pl.array = s.pl.array ∧
      (commitDecision sv slot page written s).pl.table = s.pl.table ∧
      (commitDecision sv slot page written s).pl.outcome = s.pl.outcome := by
  unfold commitDecision acceptOp
  (repeat' split) <;> simp [answer_lp]

end

theorem readComplete_library {s : State} {sv : Service} {slot page offset count : Nat} (hp : s.powered = true)
    (hr : s.pl.port.inFlight = some (.library slot page offset count)) (hs : s.lp.service = some sv)
    (hph : sv.phase = .library) :
    Leaves (exec .readComplete s) fun t =>
      t.lp.service = none ∧ t.pl.array = s.pl.array ∧
      t.lp.general = s.lp.general ++ [⟨sv.node, .answer, 0x00,
        (List.range count).map (fun i => arrayByte s.pl.array (slotBase slot + (page * 256 + offset + i) % 4096)),
        answerPriority (some sv.role), 0, .none⟩] := by
  have hread : deliver (.library slot page offset count) s.portFreed =
      answer sv .ok (libraryBytes s.pl.array slot page offset count) s.portFreed := by
    show libraryRead slot page offset count s.portFreed = _
    rw [libraryRead, waitingService_of (s := s.portFreed) hs hph]
    rfl
  refine ⟨_, exec_readComplete hp hr, ?_⟩
  obtain ⟨hservice, hgeneral⟩ := settle_answerThen_lp sv .ok (libraryBytes s.pl.array slot page offset count) .none s.portFreed
  rw [hread, libraryBytes_eq]
  rw [libraryBytes_eq] at hservice hgeneral
  exact ⟨hservice, by simp [State.portFreed], hgeneral⟩

theorem readComplete_written {s : State} {sv : Service} {slot page : Nat} (hp : s.powered = true)
    (hr : s.pl.port.inFlight = some (.written slot page)) (hs : s.lp.service = some sv) (hph : sv.phase = .written) :
    exec .readComplete s = .next (settle (commitDecision sv slot page
      (s.pl.pageBuffer.any fun c => arrayByte s.pl.array (pageBase slot page + c.1) != blankByte) s.portFreed)) := by
  rw [exec_readComplete hp hr]
  show Host.Outcome.next (settle (writtenRead slot page s.portFreed)) = _
  rw [writtenRead, waitingService_of (s := s.portFreed) hs hph]
  rfl

/-- A loaded offset's byte is written (R23). -/
theorem anyWritten_iff (s : State) (slot page : Nat) :
    (s.pl.pageBuffer.any fun c => arrayByte s.pl.array (pageBase slot page + c.1) != blankByte) = true ↔
      ∃ c ∈ s.pl.pageBuffer, arrayByte s.pl.array (pageBase slot page + c.1) ≠ 0xFF := by
  simp [blankByte]

/-- The setup page's read answers a RELOAD SETUP: a usable page's settings come into force, or nothing but the outcome changes. -/
theorem readComplete_reload {s : State} {sv : Service} (hp : s.powered = true) (hr : s.pl.port.inFlight = some .reload)
    (hs : s.lp.service = some sv) (hph : sv.phase = .reload) :
    (∀ test, readSetupPage s.pl.array = .error test →
      exec .readComplete s = .next (settle (answer sv .ok [1, test] (reloadOutcome .failed s.portFreed)))) ∧
    ∀ new, readSetupPage s.pl.array = .ok new →
      exec .readComplete s = .next (settle (answerThen sv .ok [0]
        ⟨some new.nodeNumber, some new.cellTime, some new.lineFilter, false⟩
        (applyTravel ((reloadOutcome .done s.portFreed).setSt { s.st with working := new, defaults := false })))) := by
  have hread : deliver .reload s.portFreed = reloadRead s.portFreed := rfl
  rw [exec_readComplete hp hr, hread]
  have hw := waitingService_of (s := s.portFreed) hs hph
  have harray : s.portFreed.pl.array = s.pl.array := rfl
  refine ⟨fun test h => ?_, fun new h => ?_⟩
  · rw [reloadRead, hw, harray, h]
  · rw [reloadRead, hw, harray, h]
    rfl

/-- Settles O31, by what each of the three reads delivers to the request that waits for it. -/
theorem libraryReadIsAnswered : Obligations.LibraryReadIsAnswered := by
  refine ⟨fun s sv slot page offset count hp hr hs hph => readComplete_library hp hr hs hph,
    fun s sv slot page hp hr hs hph hop => ?commit, fun s sv hp hr hs hph => ?reload⟩
  case commit =>
    refine ⟨_, readComplete_written hp hr hs hph, ?_⟩
    obtain ⟨hservice, harray, htable, houtcome⟩ := commitDecision_keeps sv slot page s.portFreed
      (s.pl.pageBuffer.any fun c => arrayByte s.pl.array (pageBase slot page + c.1) != blankByte)
    rw [settle_lp_service, settle_pl_array, settle_pl_table, settle_pl_outcome, settle_lp_general, settle_pl_pageBuffer,
      settle_pl_failFlag, settle_op]
    refine ⟨hservice, harray, htable, houtcome, fun hw => ?_, fun hempty => ?_, fun hload hblank he => ?_⟩
    · rw [(anyWritten_iff s slot page).2 hw, commitDecision_written]
      exact ⟨rfl, settle_op_none hop, rfl, rfl⟩
    · rw [hempty, List.any_nil, commitDecision_empty sv slot page s.portFreed hempty]
      exact ⟨rfl, settle_op_none hop, hempty, rfl⟩
    · have hnot : (s.pl.pageBuffer.any fun c => arrayByte s.pl.array (pageBase slot page + c.1) != blankByte) = false := by
        rw [← Bool.not_eq_true, anyWritten_iff]
        rintro ⟨c, hc, hne⟩
        exact hne (hblank c hc)
      rw [hnot, commitDecision_accepted sv slot page s.portFreed hload (if_neg (by simp [State.portFreed, he])), acceptOp_lp,
        acceptOp_pageBuffer, acceptOp_failFlag, acceptOp_op]
      exact ⟨rfl, rfl, rfl, rfl⟩
  case reload =>
    obtain ⟨hbad, hgood⟩ := readComplete_reload hp hr hs hph
    cases hpage : readSetupPage s.pl.array with
    | error test =>
      refine ⟨_, hbad test hpage, ?_⟩
      obtain ⟨hservice, hgeneral⟩ := settle_answerThen_lp sv .ok [1, test] .none (reloadOutcome .failed s.portFreed)
      refine ⟨hservice, by simp [reloadOutcome, State.portFreed], by simp [reloadOutcome, State.portFreed], ?_, nofun⟩
      intro test' ht
      cases ht
      exact ⟨by simp [reloadOutcome, State.portFreed], by simp [reloadOutcome, State.portFreed],
        by simp [reloadOutcome], hgeneral⟩
    | ok new =>
      refine ⟨_, hgood new hpage, ?_⟩
      obtain ⟨hservice, hgeneral⟩ := settle_answerThen_lp sv .ok [0]
        ⟨some new.nodeNumber, some new.cellTime, some new.lineFilter, false⟩
        (applyTravel ((reloadOutcome .done s.portFreed).setSt { s.st with working := new, defaults := false }))
      refine ⟨hservice, by simp [reloadOutcome, State.portFreed], by simp [reloadOutcome, State.portFreed], nofun, ?_⟩
      intro new' ht
      cases ht
      exact ⟨by simp [applyTravel], by simp [applyTravel, reloadOutcome, State.portFreed], by simp [reloadOutcome],
        hgeneral⟩

end Sys2Proof.Machine
end

section
/-! SUPPORT. The steps of an operation: what each step's end leads to, and what the array's reports and a bound's expiry make
of it. -/

namespace Sys2Proof.Machine

/-! ### The parts of a step's end -/

section
variable (l : Library) (o : Op) (step : ArrayStep) (w : OpWork) (r : OpResult) (slot : Nat) (e : SlotEntry)

@[simp] theorem setEntry_table : (l.setEntry slot e).table = l.table.set slot e := rfl
@[simp] theorem setEntry_outcome : (l.setEntry slot e).outcome = l.outcome := rfl
@[simp] theorem setEntry_failFlag : (l.setEntry slot e).failFlag = l.failFlag := rfl

@[simp] theorem finish_op : (l.finish w r).op = none := rfl
@[simp] theorem finish_table : (l.finish w r).table = l.table := rfl
@[simp] theorem finish_outcome : (l.finish w r).outcome = some ⟨w.name, w.slot, w.page, r⟩ := rfl
@[simp] theorem finish_failFlag : (l.finish w r).failFlag = l.failFlag := rfl

@[simp] theorem proceed_op : (l.proceed o step).op = some { o with point := .stepping step } := rfl
@[simp] theorem proceed_table : (l.proceed o step).table = l.table := rfl
@[simp] theorem proceed_outcome : (l.proceed o step).outcome = l.outcome := rfl

@[simp] theorem nextStep_op : (l.nextStep o step).op = some { o with point := .stepping step, interval := false } := by
  unfold Library.nextStep; dsimp only; split <;> rfl
@[simp] theorem nextStep_table : (l.nextStep o step).table = l.table := by
  unfold Library.nextStep; dsimp only; split <;> rfl
@[simp] theorem nextStep_outcome : (l.nextStep o step).outcome = l.outcome := by
  unfold Library.nextStep; dsimp only; split <;> rfl

@[simp] theorem fail_op : (l.fail w).op = none := rfl
@[simp] theorem fail_failFlag : (l.fail w).failFlag = true := rfl
@[simp] theorem fail_outcome : (l.fail w).outcome = some ⟨w.name, w.slot, w.page, .failed⟩ := rfl

end

theorem fail_table_of_slot (l : Library) {w : OpWork} {slot : Nat} (hs : w.slot = some slot) :
    (l.fail w).table = l.table.set slot .failed := by
  unfold Library.fail; rw [hs]; rfl

theorem fail_table_of_setup (l : Library) {w : OpWork} (hs : w.slot = none) : (l.fail w).table = l.table := by
  unfold Library.fail; rw [hs]; rfl

/-! ### What each step's end leads to (R24, R25, R28, R29, R172) -/

section
variable (l : Library) (o : Op) (expired : Bool)

theorem stepEnded_openedMark {slot : Nat} (hs : o.work.slot = some slot) :
    l.stepEnded o .openedMark true expired = (l.setEntry slot .opened).proceed o .pageData := by
  simp [Library.stepEnded, hs]

theorem stepEnded_pageData : l.stepEnded o .pageData true expired = l.finish o.work .done := rfl

/-- The summary read back is followed by the mark CLOSED where the mark OPENED stands. -/
theorem stepEnded_summaryFields {slot : Nat} (hs : o.work.slot = some slot)
    (hm : arrayByte l.array (markAddress slot) = markOpened) :
    l.stepEnded o .summaryFields true expired = l.proceed o .closedMark := by
  simp only [Library.stepEnded, if_true, Library.writeMark, hs, hm]
  rfl

theorem stepEnded_closedMark {slot : Nat} {info : SlotInfo} (hw : o.work = .close slot (some info)) :
    l.stepEnded o .closedMark true expired = (l.setEntry slot (.closed info)).finish o.work .done := by
  simp only [Library.stepEnded, if_true, Library.closeDone, hw]

/-- A program step of COMMIT PAGE or CLOSE SLOT that fails leads to the mark VOID. -/
theorem stepEnded_programFailed {step : ArrayStep}
    (h : step = .openedMark ∨ step = .pageData ∨ step = .summaryFields ∨ step = .closedMark) :
    l.stepEnded o step false expired = l.voidAndFail o := by
  rcases h with rfl | rfl | rfl | rfl <;> rfl

/-- The mark VOID is written by a step of its own, unless it stands already. -/
theorem voidAndFail_eq {slot : Nat} (hs : o.work.slot = some slot) :
    l.voidAndFail o = if arrayByte l.array (markAddress slot) = 0x00 then l.fail o.work
      else l.nextStep o .voidMarkAfterFailure := by
  simp only [Library.voidAndFail, Library.writeMark, hs, markProgrammed_void, ne_eq, ite_not]

theorem stepEnded_voidMarkFirst : l.stepEnded o .voidMarkFirst true expired = l.nextStep o .slotErase := rfl

/-- The mark VOID not read back, and the end of one written after a failure, end the operation FAILED. -/
theorem stepEnded_voidMark {step : ArrayStep} {good : Bool}
    (h : step = .voidMarkAfterFailure ∨ step = .voidMarkFirst ∧ good = false) :
    l.stepEnded o step good expired = l.fail o.work := by
  rcases h with rfl | ⟨rfl, rfl⟩ <;> rfl

theorem stepEnded_slotErase {slot : Nat} (hs : o.work.slot = some slot) :
    l.stepEnded o .slotErase true expired = (l.setEntry slot .empty).finish o.work .done := by
  simp [Library.stepEnded, hs]

theorem stepEnded_slotErase_failed : l.stepEnded o .slotErase false expired = l.fail o.work := rfl

theorem stepEnded_signatureZero {copy : Settings} {zeroFailed : Bool} (hw : o.work = .setup copy zeroFailed) (good : Bool) :
    l.stepEnded o .signatureZero good false = l.nextStep { o with work := .setup copy (!good) } .setupErase := by
  simp [Library.stepEnded, hw]

theorem stepEnded_setupErase {copy : Settings} (hw : o.work = .setup copy false) :
    l.stepEnded o .setupErase true expired = l.nextStep o .setupFields := by
  simp [Library.stepEnded, hw]

theorem stepEnded_setupErase_failed {copy : Settings} {zeroFailed good : Bool} (hw : o.work = .setup copy zeroFailed)
    (h : good = false ∨ zeroFailed = true) : l.stepEnded o .setupErase good expired = l.fail o.work := by
  rcases h with rfl | rfl <;> simp [Library.stepEnded, hw]

theorem stepEnded_setupFields : l.stepEnded o .setupFields true expired = l.nextStep o .signatureWrite := rfl

theorem stepEnded_signatureWrite : l.stepEnded o .signatureWrite true expired = l.finish o.work .done := rfl

theorem stepEnded_setupFailed {step : ArrayStep} (h : step = .setupFields ∨ step = .signatureWrite) :
    l.stepEnded o step false expired = l.fail o.work := by
  rcases h with rfl | rfl <;> rfl

/-- The expiry of the bound fails every step of WRITE SETUP. -/
theorem stepEnded_setupExpired {step : ArrayStep} {copy : Settings} {zeroFailed : Bool} (hw : o.work = .setup copy zeroFailed)
    (h : step = .signatureZero ∨ step = .setupErase ∨ step = .setupFields ∨ step = .signatureWrite) :
    l.stepEnded o step false true = l.fail o.work := by
  rcases h with rfl | rfl | rfl | rfl
  · rfl
  · exact stepEnded_setupErase_failed l o true hw (.inl rfl)
  · rfl
  · rfl

end

/-! ### The state after a step's end -/

/-- The state after the end of the step in hand: `l` is the Library Controller with the array as the step left it. -/
def State.stepEnded (s : State) (l : Library) (o : Op) (step : ArrayStep) (good expired : Bool) : State :=
  portNext (s.setPl (l.stepEnded o step good expired))

section
variable (s : State) (l : Library) (o : Op) (step : ArrayStep) (good expired : Bool)

@[simp] theorem State.stepEnded_array : (s.stepEnded l o step good expired).pl.array = l.array := by
  simp [State.stepEnded]
@[simp] theorem State.stepEnded_table :
    (s.stepEnded l o step good expired).pl.table = (l.stepEnded o step good expired).table := by simp [State.stepEnded]
@[simp] theorem State.stepEnded_outcome :
    (s.stepEnded l o step good expired).pl.outcome = (l.stepEnded o step good expired).outcome := by
  simp [State.stepEnded]
@[simp] theorem State.stepEnded_failFlag :
    (s.stepEnded l o step good expired).pl.failFlag = (l.stepEnded o step good expired).failFlag := by
  simp [State.stepEnded]
@[simp] theorem State.stepEnded_op :
    (s.stepEnded l o step good expired).pl.op.map (fun o => (o.work, o.point)) =
      (l.stepEnded o step good expired).op.map fun o => (o.work, o.point) := portNext_op _

@[simp] theorem State.stepEnded_op_none :
    (s.stepEnded l o step good expired).pl.op = none ↔ (l.stepEnded o step good expired).op = none := by
  rw [← Option.map_eq_none_iff, State.stepEnded_op, Option.map_eq_none_iff]

/-- A step's end that fails the operation on a slot. -/
theorem State.stepEnded_fails {slot : Nat} (hs : o.work.slot = some slot)
    (h : l.stepEnded o step good expired = l.fail o.work) :
    (s.stepEnded l o step good expired).pl.op = none ∧ (s.stepEnded l o step good expired).pl.failFlag = true ∧
      (s.stepEnded l o step good expired).pl.table = l.table.set slot .failed ∧
      (s.stepEnded l o step good expired).pl.outcome = some ⟨o.work.name, some slot, o.work.page, .failed⟩ := by
  simp [h, fail_table_of_slot l hs, hs]

/-- A step's end that fails the WRITE SETUP. -/
theorem State.stepEnded_failsSetup {copy : Settings} {zeroFailed : Bool} (hw : o.work = .setup copy zeroFailed)
    (h : l.stepEnded o step good expired = l.fail o.work) :
    (s.stepEnded l o step good expired).pl.op = none ∧ (s.stepEnded l o step good expired).pl.failFlag = true ∧
      (s.stepEnded l o step good expired).pl.table = l.table ∧
      (s.stepEnded l o step good expired).pl.outcome = some ⟨.writeSetup, none, none, .failed⟩ := by
  have hs : o.work.slot = none := by rw [hw]; rfl
  have hname : o.work.name = .writeSetup := by rw [hw]; rfl
  have hpage : o.work.page = none := by rw [hw]; rfl
  simp [h, fail_table_of_setup l hs, hs, hname, hpage]

/-- A program step of COMMIT PAGE or CLOSE SLOT that fails: the mark VOID follows, or the operation ends FAILED at once where
it stands already. -/
theorem State.stepEnded_programFailed {slot : Nat} (hs : o.work.slot = some slot)
    (h : step = .openedMark ∨ step = .pageData ∨ step = .summaryFields ∨ step = .closedMark) :
    (arrayByte l.array (markAddress slot) ≠ 0x00 →
      (s.stepEnded l o step false expired).pl.outcome = l.outcome ∧
      (s.stepEnded l o step false expired).pl.table = l.table ∧
      (s.stepEnded l o step false expired).pl.op.map (fun o => (o.work, o.point)) =
        some (o.work, .stepping .voidMarkAfterFailure)) ∧
    (arrayByte l.array (markAddress slot) = 0x00 →
      (s.stepEnded l o step false expired).pl.op = none ∧ (s.stepEnded l o step false expired).pl.failFlag = true ∧
      (s.stepEnded l o step false expired).pl.table = l.table.set slot .failed ∧
      (s.stepEnded l o step false expired).pl.outcome = some ⟨o.work.name, some slot, o.work.page, .failed⟩) := by
  have hvoid := (Machine.stepEnded_programFailed l o expired h).trans (voidAndFail_eq l o hs)
  refine ⟨fun hm => ?_, fun hm => ?_⟩
  · rw [if_neg hm] at hvoid
    simp [hvoid]
  · rw [if_pos hm] at hvoid
    exact s.stepEnded_fails l o step false expired hs hvoid

end

/-! ### The array's reports and the expiry of a bound -/

section
variable {s : State} {work : OpWork} {at' : ArrayStep} {i : Bool}

theorem exec_programStepComplete (hp : s.powered = true) (hop : s.pl.op = some ⟨work, .stepping at', i, false⟩)
    (he : stepErases at' = false) (failed : List Host.Cell) :
    exec (.programStepComplete at' failed) s =
      .next (s.stepEnded { s.pl with array := programCells s.pl.array failed (work.cells at') }
        ⟨work, .stepping at', i, false⟩ at' (readBack (programCells s.pl.array failed (work.cells at')) (work.cells at'))
        false) := by
  show Host.Outcome.next (whenPowered s _) = _
  rw [whenPowered_of hp, Library.running, hop]
  exact congrArg Host.Outcome.next (if_pos ⟨rfl, he⟩)

theorem exec_eraseComplete (hp : s.powered = true) (hop : s.pl.op = some ⟨work, .stepping at', i, false⟩)
    (he : stepErases at' = true) (residue : List Host.Cell) :
    exec (.eraseComplete residue) s =
      .next (s.stepEnded { s.pl with array := work.eraseLeaves s.pl.array residue } ⟨work, .stepping at', i, false⟩ at'
        (spanBlank (work.eraseLeaves s.pl.array residue) work.unit.1 work.unit.2) false) := by
  show Host.Outcome.next (whenPowered s _) = _
  rw [whenPowered_of hp, Library.running, hop]
  exact congrArg Host.Outcome.next (if_pos he)

theorem exec_boundExpiry (hp : s.powered = true) (hop : s.pl.op = some ⟨work, .stepping at', i, false⟩)
    (left : List Host.Cell) :
    exec (.boundExpiry left) s =
      .next (s.stepEnded { s.pl with array := s.pl.expired left } ⟨work, .stepping at', i, false⟩ at' false true) := by
  show Host.Outcome.next (whenPowered s _) = _
  rw [whenPowered_of hp, Library.running, hop]
  rfl

/-- A report that finds no step has no effect (R29). -/
theorem exec_eraseComplete_idle (hop : s.pl.op = none) (residue : List Host.Cell) :
    exec (.eraseComplete residue) s = .next s := by
  show Host.Outcome.next (whenPowered s _) = _
  rw [whenPowered, Library.running, hop]
  exact congrArg Host.Outcome.next (ite_self _)

end

/-! ### The setup page's signature through the steps of WRITE SETUP -/

theorem le_of_mem_placeBytes {a : Nat} {bytes : List Byte} {c : Host.Cell} (h : c ∈ placeBytes a bytes) : a ≤ c.1 := by
  induction bytes generalizing a with
  | nil => simp [placeBytes] at h
  | cons b rest ih =>
    rcases List.mem_cons.1 h with rfl | h
    · exact Nat.le_refl _
    · exact Nat.le_of_succ_le (ih h)

/-- The fields lie behind the signature. -/
theorem setupFields_behind_signature {copy : Settings} {zeroFailed : Bool} {c : Host.Cell}
    (h : c ∈ (OpWork.setup copy zeroFailed).cells .setupFields) : c.1 ≠ setupBase + 1 := by
  have hle : setupBase + 2 ≤ c.1 := le_of_mem_placeBytes (bytes := setupFieldBytes copy) h
  omega

theorem readSetupPage_of_byte {mem : List Host.Cell} (h : arrayByte mem (setupBase + 1) ≠ 0x5A) :
    readSetupPage mem = .error 0 := readSetupPage_of_no_signature (signature_missing (.inr h))

/-- A signature that is not read back does not stand. -/
theorem readSetupPage_of_readBack {mem : List Host.Cell} {copy : Settings} {zeroFailed : Bool}
    (h : readBack mem ((OpWork.setup copy zeroFailed).cells .signatureWrite) = false) : readSetupPage mem = .error 0 := by
  refine readSetupPage_of_no_signature ?_
  simpa [readBack, OpWork.cells, OpWork.slot, signatureStands] using h

/-- Settles O28, by what each step's end leads to. -/
theorem programStepEndsCommit : Obligations.ProgramStepEndsCommit := by
  intro s work at' failed i hp hop he bytes mem good
  have hstep : exec (.programStepComplete at' failed) s = .next (s.stepEnded { s.pl with array := mem }
      ⟨work, .stepping at', i, false⟩ at' good false) := exec_programStepComplete hp hop he failed
  have hgood : good = readBack mem bytes := rfl
  have hmem : mem = programCells s.pl.array failed bytes := rfl
  clear_value good mem
  refine ⟨_, hstep, State.stepEnded_array .., ?commit, ?close, ?slot, ?setup⟩
  case commit =>
    rintro slot page cells rfl
    refine ⟨?_, ?_⟩
    · rintro rfl rfl
      rw [State.stepEnded_op, State.stepEnded_table, State.stepEnded_outcome, stepEnded_openedMark _ _ _ rfl]
      exact ⟨rfl, rfl, rfl⟩
    · rintro rfl
      have hbytes : bytes = cells.map fun c => (pageBase slot page + c.1, c.2) := rfl
      refine ⟨hbytes, fun o ho hblank => ?_, ?_⟩
      · rw [hmem, arrayByte_programCells_of_kept, hblank]
        intro c hc hca
        rw [hbytes, List.mem_map] at hc
        obtain ⟨d, hd, rfl⟩ := hc
        exact ⟨ho d hd (Nat.add_left_cancel hca), hblank⟩
      · rintro rfl
        rw [State.stepEnded_op_none, State.stepEnded_table, State.stepEnded_failFlag, State.stepEnded_outcome,
          stepEnded_pageData]
        exact ⟨rfl, rfl, rfl, rfl⟩
  case close =>
    rintro slot info rfl
    refine ⟨?_, ?_⟩
    · rintro rfl rfl hm
      rw [State.stepEnded_op, State.stepEnded_table, stepEnded_summaryFields _ _ _ rfl hm]
      exact ⟨rfl, rfl⟩
    · rintro rfl
      refine ⟨rfl, ?_⟩
      rintro rfl
      rw [State.stepEnded_op_none, State.stepEnded_table, State.stepEnded_failFlag, State.stepEnded_outcome,
        stepEnded_closedMark _ _ _ rfl]
      exact ⟨rfl, rfl, rfl, rfl⟩
  case slot =>
    intro slot hslot
    refine ⟨?_, ?_, ?_⟩
    · rintro rfl hat
      exact State.stepEnded_programFailed s { s.pl with array := mem } ⟨work, .stepping at', i, false⟩ at' false hslot hat
    · intro hat
      have hbytes : bytes = [(markAddress slot, 0x00)] := by
        show work.cells at' = _
        rcases hat with rfl | ⟨rfl, -⟩ <;> simp [OpWork.cells, hslot, markVoid]
      exact ⟨hbytes, State.stepEnded_fails s _ _ at' good false hslot (stepEnded_voidMark _ _ _ hat)⟩
    · rintro rfl rfl
      rw [State.stepEnded_op, stepEnded_voidMarkFirst, nextStep_op]
      rfl
  case setup =>
    rintro copy zeroFailed rfl
    refine ⟨?_, ?_, ?_, ?_⟩
    · rintro rfl
      rw [State.stepEnded_op, stepEnded_signatureZero _ _ rfl, nextStep_op]
      exact ⟨rfl, rfl⟩
    · rintro rfl
      refine ⟨rfl, ?_⟩
      rintro rfl
      rw [State.stepEnded_op, stepEnded_setupFields, nextStep_op]
      rfl
    · rintro rfl
      refine ⟨rfl, ?_⟩
      rintro rfl
      rw [State.stepEnded_op_none, State.stepEnded_failFlag, State.stepEnded_outcome, stepEnded_signatureWrite]
      exact ⟨rfl, rfl, rfl⟩
    · rintro rfl hat
      obtain ⟨hop', hfail, -, houtcome⟩ := State.stepEnded_failsSetup s { s.pl with array := mem }
        ⟨.setup copy zeroFailed, .stepping at', i, false⟩ at' false false rfl (stepEnded_setupFailed _ _ _ hat)
      refine ⟨hop', hfail, houtcome, ?_, ?_⟩
      · rintro rfl hb
        rw [State.stepEnded_array]
        refine readSetupPage_of_byte ?_
        rw [hmem, arrayByte_programCells_of_kept _ _ fun c hc hca => absurd hca (setupFields_behind_signature hc)]
        exact hb
      · rintro rfl
        rw [State.stepEnded_array]
        exact readSetupPage_of_readBack hgood.symm

/-! ### What an erase leaves -/

theorem spanBlank_arrayErase (mem : List Host.Cell) (base size : Nat) :
    spanBlank (arrayErase mem base size) base size = true := by
  simp only [spanBlank, List.all_eq_true]
  intro c hc
  have hout := (List.mem_filter.1 hc).2
  rw [Bool.not_eq_true'] at hout ⊢
  rw [hout, Bool.false_and]

theorem mem_setCell_self (mem : List Host.Cell) (a : Nat) (v : Byte) : (a, v) ∈ setCell mem a v := by
  induction mem with
  | nil => simp [setCell]
  | cons c rest ih =>
    unfold setCell
    split
    · exact List.mem_cons_self
    · split
      · exact List.mem_cons_self
      · exact List.mem_cons_of_mem _ ih

/-- One byte of the unit that is left is enough. -/
theorem spanBlank_arraySet (mem : List Host.Cell) {base size o : Nat} {v : Byte} (ho : o < size) (hv : v ≠ 0xFF) :
    spanBlank (arraySet mem (base + o) v) base size = false := by
  have hset : arraySet mem (base + o) v = setCell mem (base + o) v := if_neg hv
  rw [hset, ← Bool.not_eq_true, spanBlank, List.all_eq_true]
  intro hall
  have hbyte := hall _ (mem_setCell_self mem (base + o) v)
  simp [ho, blankByte] at hbyte
  exact hv hbyte

theorem erased_single (mem : List Host.Cell) {base size o : Nat} (v : Byte) (ho : o < size) :
    erased mem base size [(base + o, v)] = arraySet (arrayErase mem base size) (base + o) v := by
  rw [erased, if_pos ⟨Nat.le_add_right .., Nat.add_lt_add_left ho _⟩, erased]

theorem eraseLeaves_erase (slot : Nat) (mem residue : List Host.Cell) :
    (OpWork.erase slot).eraseLeaves mem residue = erased mem (slotBase slot) 4096 residue := rfl

/-- Where no signature is left, the erase of the setup page leaves just what the report lists. -/
theorem eraseLeaves_setup {copy : Settings} {zeroFailed : Bool} {mem residue : List Host.Cell}
    (h : signatureStands (erased mem setupBase 256 residue) = false) :
    (OpWork.setup copy zeroFailed).eraseLeaves mem residue = erased mem setupBase 256 residue := by
  cases zeroFailed with
  | true => rfl
  | false => exact if_neg (by rw [Bool.not_eq_true]; exact h)

theorem no_signature_erased_nil (mem : List Host.Cell) : signatureStands (erased mem setupBase 256 []) = false := by
  refine signature_missing (.inr ?_)
  rw [arrayByte_erased_of_unlisted mem [] rfl (by omega)]
  decide

/-- One byte does not make a signature. -/
theorem no_signature_erased_single (mem : List Host.Cell) (a : Nat) (v : Byte) :
    signatureStands (erased mem setupBase 256 [(a, v)]) = false := by
  by_cases ha : a = setupBase
  · refine signature_missing (.inr ?_)
    rw [arrayByte_erased_of_unlisted mem _ (by rw [cellAt, if_neg (by simp [ha]), cellAt]) (by omega)]
    decide
  · refine signature_missing (.inl ?_)
    rw [arrayByte_erased_of_unlisted mem _ (by rw [cellAt, if_neg ha, cellAt]) (by omega)]
    decide

/-! ### What the expiry of a bound leaves of the setup page -/

theorem arrayByte_interruptCells_of_other (marks : Bool) (left cells : List Host.Cell) {mem : List Host.Cell} {a : Nat}
    (h : ∀ c ∈ cells, c.1 ≠ a) : arrayByte (interruptCells mem marks left cells) a = arrayByte mem a := by
  induction cells generalizing mem with
  | nil => rfl
  | cons c rest ih =>
    unfold interruptCells
    rw [ih fun d hd => h d (List.mem_cons_of_mem _ hd)]
    split
    · rfl
    · rw [arrayByte_arrayProgram, if_neg (h c List.mem_cons_self)]

/-- An erase cut short has blanked a byte or left it. -/
theorem arrayByte_interruptErase (mem : List Host.Cell) (base size : Nat) (left : List Host.Cell) (a : Nat) :
    arrayByte (interruptErase mem base size left) a = blankByte ∨
      arrayByte (interruptErase mem base size left) a = arrayByte mem a := by
  unfold arrayByte interruptErase
  rw [cellAt_filter mem (fun x => !(decide (base ≤ x) && decide (x < base + size) && (cellAt left x).isSome)) a]
  split
  · exact .inr rfl
  · exact .inl rfl

/-- A setup page whose signature had been zeroed or erased is not usable after a bound's expiry in a later step (R172). -/
theorem readSetupPage_expired {l : Library} {copy : Settings} {zeroFailed i : Bool} {step : ArrayStep}
    (hop : l.op = some ⟨.setup copy zeroFailed, .stepping step, i, false⟩)
    (hstep : step = .setupErase ∨ step = .setupFields ∨ step = .signatureWrite)
    (hb : arrayByte l.array (setupBase + 1) ≠ 0x5A) (left : List Host.Cell) :
    readSetupPage (l.expired left) = .error 0 := by
  rcases hstep with rfl | rfl | rfl
  · have hleft : l.expired left = interruptErase l.array setupBase 256 left := by
      simp [Library.expired, Library.interrupted, hop, stepErases, OpWork.unit, OpWork.slot, Config.pageBytes]
    rw [hleft]
    refine readSetupPage_of_byte ?_
    rcases arrayByte_interruptErase l.array setupBase 256 left (setupBase + 1) with h | h <;> rw [h]
    · decide
    · exact hb
  · have hleft : l.expired left =
        interruptCells l.array false left ((OpWork.setup copy zeroFailed).cells .setupFields) := by
      simp [Library.expired, Library.interrupted, hop, stepErases, stepMarks]
    rw [hleft]
    refine readSetupPage_of_byte ?_
    rw [arrayByte_interruptCells_of_other _ _ _ fun c hc => setupFields_behind_signature hc]
    exact hb
  · exact readSetupPage_of_no_signature (expired_no_signature left hop hb)

/-- Settles O29, by what an erase leaves of its unit and by what each step's end leads to. -/
theorem eraseEnds : Obligations.EraseEnds := by
  refine ⟨fun s slot i residue hp hop => ⟨?blank, ?left, ?expiry⟩,
    fun s copy zeroFailed i hp hop => ⟨?setupBlank, ?setupLeft⟩,
    fun s copy i residue hp hop => ?noSignature, fun s work at' i left hp hop => ?bound⟩
  case blank =>
    rintro rfl
    refine ⟨_, exec_eraseComplete hp hop rfl [], ?_⟩
    have hmem : (OpWork.erase slot).eraseLeaves s.pl.array [] = arrayErase s.pl.array (slotBase slot) 4096 := rfl
    have hblank : spanBlank (arrayErase s.pl.array (slotBase slot) 4096) (OpWork.erase slot).unit.1
        (OpWork.erase slot).unit.2 = true := spanBlank_arrayErase ..
    rw [hmem, hblank]
    beta_reduce
    rw [State.stepEnded_array, State.stepEnded_op_none, State.stepEnded_failFlag, State.stepEnded_table,
      State.stepEnded_outcome, stepEnded_slotErase _ _ _ rfl]
    exact ⟨rfl, rfl, rfl, rfl, rfl⟩
  case left =>
    rintro o v ho hv rfl
    refine ⟨_, exec_eraseComplete hp hop rfl _, ?_⟩
    have hleft : spanBlank ((OpWork.erase slot).eraseLeaves s.pl.array [(slotBase slot + o, v)]) (OpWork.erase slot).unit.1
        (OpWork.erase slot).unit.2 = false := by
      rw [eraseLeaves_erase, erased_single _ _ ho]
      exact spanBlank_arraySet _ ho hv
    rw [hleft]
    exact State.stepEnded_fails s _ _ _ _ _ rfl (stepEnded_slotErase_failed ..)
  case expiry =>
    intro left
    obtain ⟨hnone, hfail, htable, houtcome⟩ := State.stepEnded_fails s { s.pl with array := s.pl.expired left }
      ⟨.erase slot, .stepping .slotErase, i, false⟩ .slotErase false true rfl (stepEnded_slotErase_failed ..)
    exact ⟨_, exec_boundExpiry hp hop left, hnone, hfail, htable, houtcome, exec_eraseComplete_idle hnone⟩
  case setupBlank =>
    refine ⟨_, exec_eraseComplete hp hop rfl [], ?_⟩
    have hmem : (OpWork.setup copy zeroFailed).eraseLeaves s.pl.array [] = arrayErase s.pl.array setupBase 256 :=
      eraseLeaves_setup (no_signature_erased_nil _)
    have hblank : spanBlank (arrayErase s.pl.array setupBase 256) (OpWork.setup copy zeroFailed).unit.1
        (OpWork.setup copy zeroFailed).unit.2 = true := spanBlank_arrayErase ..
    rw [hmem, hblank]
    refine ⟨State.stepEnded_array .., ?_, ?_, ?_⟩
    · rw [State.stepEnded_table]
      cases zeroFailed with
      | false => rw [stepEnded_setupErase _ _ _ rfl, nextStep_table]
      | true => rw [stepEnded_setupErase_failed _ _ _ rfl (.inr rfl), fail_table_of_setup _ rfl]
    · rintro rfl
      rw [State.stepEnded_op, stepEnded_setupErase _ _ _ rfl, nextStep_op]
      rfl
    · rintro rfl
      obtain ⟨hnone, hfail, -, houtcome⟩ := State.stepEnded_failsSetup s
        { s.pl with array := arrayErase s.pl.array setupBase 256 } ⟨.setup copy true, .stepping .setupErase, i, false⟩
        .setupErase true false rfl (stepEnded_setupErase_failed _ _ _ rfl (.inr rfl))
      exact ⟨hnone, hfail, houtcome⟩
  case setupLeft =>
    intro o v ho hv
    refine ⟨_, exec_eraseComplete hp hop rfl _, ?_⟩
    have hleft : spanBlank ((OpWork.setup copy zeroFailed).eraseLeaves s.pl.array [(setupBase + o, v)])
        (OpWork.setup copy zeroFailed).unit.1 (OpWork.setup copy zeroFailed).unit.2 = false := by
      rw [eraseLeaves_setup (no_signature_erased_single ..), erased_single _ _ ho]
      exact spanBlank_arraySet _ ho hv
    rw [hleft]
    exact State.stepEnded_failsSetup s _ _ _ _ _ rfl (stepEnded_setupErase_failed _ _ _ rfl (.inl rfl))
  case noSignature =>
    refine ⟨_, exec_eraseComplete hp hop rfl residue, ?_⟩
    beta_reduce
    rw [State.stepEnded_array]
    exact readSetupPage_of_no_signature (eraseLeaves_no_signature ..)
  case bound =>
    refine ⟨_, exec_boundExpiry hp hop left, State.stepEnded_array ..,
      fun slot hslot => ⟨fun hat => ?_, fun hat => ?_⟩, ?_⟩
    · rw [State.stepEnded_array]
      exact State.stepEnded_programFailed s _ _ at' true hslot hat
    · have hvoid : at' = .voidMarkAfterFailure ∨ at' = .voidMarkFirst ∧ false = false :=
        hat.symm.imp_right fun h => ⟨h, rfl⟩
      exact State.stepEnded_fails s _ _ at' false true hslot (stepEnded_voidMark _ _ _ hvoid)
    · rintro copy zeroFailed rfl hat
      obtain ⟨hnone, hfail, htable, houtcome⟩ := State.stepEnded_failsSetup s { s.pl with array := s.pl.expired left }
        ⟨.setup copy zeroFailed, .stepping at', i, false⟩ at' false true rfl (stepEnded_setupExpired _ _ rfl hat)
      refine ⟨hnone, hfail, htable, houtcome, fun hnot hb => ?_⟩
      rw [State.stepEnded_array]
      exact readSetupPage_expired hop (hat.resolve_left hnot) hb left

end Sys2Proof.Machine
end

section
/-! SUPPORT. Expander reads and a step that runs: what the expander's settling asks of the port, and what the port then does. -/

namespace Sys2Proof.Machine

/-! ### What the port does with a step in hand (R32 to R34) -/

section
variable {s : State} {work : OpWork} {step : ArrayStep} {interval : Bool} {r : ReadFor}

theorem portNext_pauses (hop : s.pl.op = some ⟨work, .stepping step, false, false⟩) (hin : s.pl.port.inFlight = none)
    (hex : s.pl.port.expander = some r) : portNext s = suspendStep ⟨work, .stepping step, false, false⟩ s := by
  simp [portNext, hin, hop, hex]

/-- Inside a progress interval a read waits (R34). -/
theorem portNext_interval (hop : s.pl.op = some ⟨work, .stepping step, true, false⟩) : portNext s = s := by
  unfold portNext
  rw [hop]
  cases s.pl.port.inFlight with
  | some _ => rfl
  | none => cases s.pl.port.expander <;> simp

/-- With no expander read waiting a step that runs goes on. -/
theorem portNext_goesOn (hop : s.pl.op = some ⟨work, .stepping step, interval, false⟩)
    (hex : s.pl.port.expander = none) : portNext s = s := by
  unfold portNext
  rw [hop]
  cases s.pl.port.inFlight with
  | some _ => rfl
  | none => simp [hex]

/-- A paused step lets the next expander read be served in the same suspension. -/
theorem portNext_serves (hop : s.pl.op = some ⟨work, .stepping step, interval, true⟩) (hin : s.pl.port.inFlight = none)
    (hex : s.pl.port.expander = some r) :
    portNext s = s.setPort { s.pl.port with inFlight := some r, expander := none } := by
  simp [portNext, hin, hop, hex, Port.choose]

/-- With none waiting it resumes into a progress interval. -/
theorem portNext_resumes (hop : s.pl.op = some ⟨work, .stepping step, interval, true⟩) (hin : s.pl.port.inFlight = none)
    (hex : s.pl.port.expander = none) :
    portNext s = s.setPl { s.pl with op := some ⟨work, .stepping step, true, false⟩ } := by
  simp [portNext, hin, hop, hex]

/-- Only a step that runs outside a progress interval is suspended and counted. -/
theorem portNext_counters_same (hop : ∀ work step, s.pl.op ≠ some ⟨work, .stepping step, false, false⟩) :
    (portNext s).rc.counters = s.rc.counters := by
  unfold portNext
  (repeat' split) <;> try rfl
  next o ho _ step hpoint _ _ _ hsus hint =>
    obtain ⟨work, point, interval, suspended⟩ := o
    simp only [Bool.not_eq_true] at hsus hint
    cases hpoint
    cases hsus
    cases hint
    exact absurd ho (hop work step)

end

/-! ### What the expander's settling does -/

/-- The plan is read off the context, the hand, the queue, the slot table and the settings. -/
theorem plan_congr {s t : State} (hc : t.sx.context = s.sx.context) (hh : t.sx.hand = s.sx.hand) (hq : t.queue = s.queue)
    (ht : t.pl.table = s.pl.table) (hst : t.st = s.st) : t.plan = s.plan := by
  have henv : t.copyEnv = s.copyEnv := by
    funext o
    rw [State.copyEnv, State.copyEnv, ht, hst]
  unfold State.plan
  rw [hc, hh, hq, henv]

/-- The expander goes on by itself: it expands, or holds for a place. -/
def ExpanderState.goesOn : ExpanderState → Bool
  | .expanding | .holding .windowFull | .holding .cutReserveFull => true
  | .idle | .holding .queueEmpty | .holding .endRequested => false

section
variable {s : State} (n : Nat)

theorem sxSettle_rests (hx : s.sx.state.goesOn = false) : sxSettle n s = s := by
  cases n with
  | zero => rfl
  | succ n =>
    unfold sxSettle
    split
    · rfl
    · rfl
    · rfl
    all_goals simp_all [ExpanderState.goesOn]

theorem sxSettle_need (hx : s.sx.state.goesOn = true) {i : Nat} (hp : s.plan = .need i) :
    sxSettle (n + 1) s = askSegment i (s.setSx { s.sx with state := .expanding }) := by
  unfold sxSettle
  rw [hp]
  split <;> simp_all [ExpanderState.goesOn]

theorem sxSettle_make (hx : s.sx.state.goesOn = true) {m : Making} {first last closing : Bool}
    (hp : s.plan = .make m first last closing) :
    sxSettle (n + 1) s = s.setSx { s.sx with state := readyState closing s } := by
  unfold sxSettle
  rw [hp]
  split <;> simp_all [ExpanderState.goesOn]

theorem sxSettle_stuck (hp : s.plan = .stuck) : sxSettle n s = s := by
  cases n with
  | zero => rfl
  | succ n =>
    unfold sxSettle
    rw [hp]
    split <;> rfl

/-- A record that is ready leaves the port alone. -/
theorem sxSettle_pl_of_make {m : Making} {first last closing : Bool} (hp : s.plan = .make m first last closing) :
    (sxSettle (n + 1) s).pl = s.pl := by
  cases hx : s.sx.state.goesOn with
  | false => rw [sxSettle_rests _ hx]
  | true => rw [sxSettle_make _ hx hp]; rfl

/-- Only the end of a copy takes another context up or gives segments back. -/
theorem sxSettle_keeps_copy (hp : ∀ c, s.plan ≠ .ended c) :
    (sxSettle n s).sx.hand = s.sx.hand ∧ (sxSettle n s).sx.context = s.sx.context := by
  cases n with
  | zero => exact ⟨rfl, rfl⟩
  | succ n =>
    cases hx : s.sx.state.goesOn with
    | false => rw [sxSettle_rests _ hx]; exact ⟨rfl, rfl⟩
    | true =>
      cases hplan : s.plan with
      | need i => rw [sxSettle_need _ hx hplan]; simp
      | make m first last closing => rw [sxSettle_make _ hx hplan]; exact ⟨rfl, rfl⟩
      | ended c => exact absurd hplan (hp c)
      | stuck => rw [sxSettle_stuck _ hplan]; exact ⟨rfl, rfl⟩

end

theorem askSegment_pl_of_waiting {s : State} {r : ReadFor} (i : Nat) (hw : s.pl.port.expander = some r) :
    (askSegment i s).pl = s.pl := by
  unfold askSegment
  cases s.sx.context.tag.bind (findOrder s.queue) with
  | none => rfl
  | some o => simp [hw]

/-- With the port free the segment's read is asked for. -/
theorem askSegment_pl_of_free {s : State} {tag : Word16} {o : Order} (i : Nat) (htag : s.sx.context.tag = some tag)
    (ho : findOrder s.queue tag = some o) (hin : s.pl.port.inFlight = none) (hex : s.pl.port.expander = none) :
    (askSegment i s).pl = { s.pl with port := { s.pl.port with expander := some (.expander o.slot i true) } } := by
  simp [askSegment, htag, ho, hin, hex, State.setPort]

/-- A read of the expander that waits already is the one that is served. -/
theorem sxSettle_pl_of_waiting {s : State} {r : ReadFor} (n : Nat) (hw : s.pl.port.expander = some r) :
    (sxSettle n s).pl = s.pl := by
  induction n generalizing s with
  | zero => rfl
  | succ n ih =>
    cases hx : s.sx.state.goesOn with
    | false => rw [sxSettle_rests _ hx]
    | true =>
      cases hplan : s.plan with
      | need i => rw [sxSettle_need _ hx hplan]; exact askSegment_pl_of_waiting i hw
      | make m first last closing => exact sxSettle_pl_of_make n hplan
      | stuck => rw [sxSettle_stuck _ hplan]
      | ended c =>
        have hnext : sxSettle (n + 1) s =
            sxSettle n (decideNext (s.setSx { s.sx with context := c, hand := [], state := .expanding })) := by
          rw [sxSettle, hplan]
          split <;> simp_all [ExpanderState.goesOn]
        rw [hnext, ih (by simpa using hw), decideNext_pl]
        rfl

/-- A segment that the expander needs is asked for where the port is free. -/
theorem sxSettle_pl_of_need {s : State} {tag : Word16} {o : Order} {i : Nat} (n : Nat) (hx : s.sx.state.goesOn = true)
    (hplan : s.plan = .need i) (htag : s.sx.context.tag = some tag) (ho : findOrder s.queue tag = some o)
    (hin : s.pl.port.inFlight = none) (hex : s.pl.port.expander = none) :
    (sxSettle (n + 1) s).pl = { s.pl with port := { s.pl.port with expander := some (.expander o.slot i true) } } := by
  rw [sxSettle_need _ hx hplan]
  exact askSegment_pl_of_free i htag ho hin hex

/-- What follows at once, for a port and an operation that the expander's settling has left as `l` says. -/
theorem settle_eq {s : State} {l : Library} (hl : (sxSettle 4 s).pl = l) :
    ∃ u : State, settle s = portNext u ∧ u.pl = l ∧ u.rc.counters = s.rc.counters :=
  ⟨rcTests (sxSettle 4 s), rfl, by rw [rcTests_pl, hl], by simp⟩

/-! ### Progress intervals that end -/

theorem exec_progressIntervalEnd {s : State} {work : OpWork} {step : ArrayStep} (hp : s.powered = true)
    (hop : s.pl.op = some ⟨work, .stepping step, true, false⟩) :
    exec .progressIntervalEnd s =
      .next (portNext (s.setPl { s.pl with op := some ⟨work, .stepping step, false, false⟩ })) := by
  show Host.Outcome.next (whenPowered s _) = _
  rw [whenPowered_of hp, hop]
  rfl

/-- A step that is suspended: the waiting read is in flight, and the suspension is counted (R33). -/
theorem suspendStep_serves {s : State} {o : Op} {r : ReadFor} (hex : s.pl.port.expander = some r) :
    (suspendStep o s).pl.op = some { o with suspended := true } ∧
      (suspendStep o s).pl.port = { s.pl.port with inFlight := some r, expander := none } ∧
      (suspendStep o s).rc =
        { s.rc with counters := { s.rc.counters with suspensions := saturatingSucc s.rc.counters.suspensions } } := by
  refine ⟨rfl, ?_, rfl⟩
  show s.pl.port.choose = _
  rw [Port.choose, hex]

/-! ### Records and the reads asked for after them -/

/-- There is room for a record: the ring has a place, nothing waits, and a closing record's cut has one. -/
theorem readyState_of_room {s : State} {closing : Bool} (hring : s.sw.ring.length < 16) (hwait : s.sw.waiting = [])
    (hcuts : closing = true → s.wt.cuts.length + s.wt.reservations.length < 8) : readyState closing s = .expanding := by
  have hplace : s.sw.full = false := by
    rw [Window.full, hwait]
    exact congrArg (· || false) (decide_eq_false (Nat.not_le.mpr hring))
  have hcut : (closing && s.wt.cutsFull) = false := by
    cases closing with
    | false => rfl
    | true => exact decide_eq_false (Nat.not_le.mpr (hcuts rfl))
  rw [readyState, hcut, hplace]
  rfl

theorem exec_expansionEvent {s : State} {m : Making} {first last closing : Bool} {tag : Word16} {copy : Nat}
    (hr : s.ready = true) (hx : s.sx.state = .expanding) (hplan : s.plan = .make m first last closing)
    (htag : s.sx.context.tag = some tag) (hcopy : s.sx.context.copy = some copy)
    (hroom : readyState closing s = .expanding) :
    exec .expansionEvent s = .next (settle (appendRecord m tag copy first last s)) := by
  show Host.Outcome.next (whenReady s _) = _
  rw [whenReady_of hr, hx, hplan, htag, hcopy]
  exact congrArg _ (if_pos hroom)

/-! ### Finished reads of the expander -/

theorem segmentAddress_eq (slot i : Nat) : segmentAddress slot i = slotBase slot +
    (if i < 28 then 32 + 8 * i else 256 * (1 + (i - 28) / 32) + 8 * ((i - 28) % 32)) := by
  simp only [segmentAddress, pageBase, Config.pageBytes]
  split <;> omega

/-- A finished read leaves its segment in the hand, unless its context was replaced. -/
theorem expanderRead_eq (slot i : Nat) (live : Bool) (s : State) : expanderRead slot i live s = s.setSx { s.sx with hand :=
    if live then s.sx.hand ++ [(i, readSegment s.pl.array (segmentAddress slot i))] else s.sx.hand } := by
  cases live <;> rfl

theorem goesOn_of {x : ExpanderState} (hidle : x ≠ .idle) (hempty : x ≠ .holding .queueEmpty)
    (hend : x ≠ .holding .endRequested) : x.goesOn = true := by
  cases x with
  | idle => exact absurd rfl hidle
  | expanding => rfl
  | holding why =>
    cases why with
    | queueEmpty => exact absurd rfl hempty
    | endRequested => exact absurd rfl hend
    | windowFull | cutReserveFull => rfl

section
variable {s : State} {work : OpWork} {step : ArrayStep} {interval : Bool}

/-- A step that runs outside an interval is suspended for the segment that the expander needs, and counted (R33). -/
theorem settle_suspends {tag : Word16} {o : Order} {i : Nat} (hx : s.sx.state.goesOn = true) (hplan : s.plan = .need i)
    (htag : s.sx.context.tag = some tag) (ho : findOrder s.queue tag = some o) (hport : s.pl.port = .quiet)
    (hop : s.pl.op = some ⟨work, .stepping step, false, false⟩) :
    (settle s).pl.op = some ⟨work, .stepping step, false, true⟩ ∧
      (settle s).pl.port = { Port.quiet with inFlight := some (.expander o.slot i true) } ∧
      (settle s).rc.counters.suspensions = saturatingSucc s.rc.counters.suspensions := by
  obtain ⟨u, hu, hpl, hcounters⟩ :=
    settle_eq (sxSettle_pl_of_need 3 hx hplan htag ho (by rw [hport]; rfl) (by rw [hport]; rfl))
  have hpause : portNext u = suspendStep ⟨work, .stepping step, false, false⟩ u :=
    portNext_pauses (r := .expander o.slot i true) (by rw [hpl]; exact hop) (by rw [hpl, hport]; rfl) (by rw [hpl])
  obtain ⟨hop', hport', hrc⟩ :=
    suspendStep_serves (o := ⟨work, .stepping step, false, false⟩) (show u.pl.port.expander = some _ by rw [hpl])
  rw [hu, hpause]
  refine ⟨hop', ?_, ?_⟩
  · rw [hport', hpl, hport]; rfl
  · rw [hrc, hcounters]

/-- Inside an interval the read waits (R34). -/
theorem settle_waits {tag : Word16} {o : Order} {i : Nat} (hx : s.sx.state.goesOn = true) (hplan : s.plan = .need i)
    (htag : s.sx.context.tag = some tag) (ho : findOrder s.queue tag = some o) (hport : s.pl.port = .quiet)
    (hop : s.pl.op = some ⟨work, .stepping step, true, false⟩) :
    (settle s).pl.op = s.pl.op ∧ (settle s).pl.port = { Port.quiet with expander := some (.expander o.slot i true) } ∧
      (settle s).rc.counters = s.rc.counters := by
  obtain ⟨u, hu, hpl, hcounters⟩ :=
    settle_eq (sxSettle_pl_of_need 3 hx hplan htag ho (by rw [hport]; rfl) (by rw [hport]; rfl))
  have hsame : portNext u = u := portNext_interval (by rw [hpl]; exact hop)
  rw [hu, hsame]
  exact ⟨by rw [hpl], by rw [hpl, hport], hcounters⟩

/-- A paused step resumes into an interval where the expander has its record ready (R34). -/
theorem settle_resumes {m : Making} {first last closing : Bool} (hplan : s.plan = .make m first last closing)
    (hop : s.pl.op = some ⟨work, .stepping step, interval, true⟩) (hin : s.pl.port.inFlight = none)
    (hex : s.pl.port.expander = none) :
    (settle s).pl.op = some ⟨work, .stepping step, true, false⟩ ∧ (settle s).pl.port.inFlight = none := by
  obtain ⟨u, hu, hpl, -⟩ := settle_eq (sxSettle_pl_of_make 3 hplan)
  have hnext := portNext_resumes (s := u) (by rw [hpl]; exact hop) (by rw [hpl]; exact hin) (by rw [hpl]; exact hex)
  rw [hu, hnext]
  exact ⟨rfl, by rw [← hin, ← hpl]; rfl⟩

/-- The next segment is served in the same suspension (R34). -/
theorem settle_serves_need {tag : Word16} {o : Order} {i : Nat} (hx : s.sx.state.goesOn = true) (hplan : s.plan = .need i)
    (htag : s.sx.context.tag = some tag) (ho : findOrder s.queue tag = some o)
    (hop : s.pl.op = some ⟨work, .stepping step, interval, true⟩) (hin : s.pl.port.inFlight = none)
    (hex : s.pl.port.expander = none) :
    (settle s).pl.op = s.pl.op ∧ (settle s).pl.port.inFlight = some (.expander o.slot i true) := by
  obtain ⟨u, hu, hpl, -⟩ := settle_eq (sxSettle_pl_of_need 3 hx hplan htag ho hin hex)
  have hnext := portNext_serves (s := u) (r := .expander o.slot i true) (by rw [hpl]; exact hop) (by rw [hpl]; exact hin)
    (by rw [hpl])
  rw [hu, hnext]
  exact ⟨by rw [State.setPort, State.setPl, hpl], rfl⟩

/-- So is a read that waits. -/
theorem settle_serves_waiting {r : ReadFor} (hop : s.pl.op = some ⟨work, .stepping step, interval, true⟩)
    (hin : s.pl.port.inFlight = none) (hex : s.pl.port.expander = some r) :
    (settle s).pl.op = s.pl.op ∧ (settle s).pl.port.inFlight = some r ∧ (settle s).pl.port.expander = none := by
  obtain ⟨u, hu, hpl, -⟩ := settle_eq (sxSettle_pl_of_waiting 4 hex)
  have hnext := portNext_serves (s := u) (by rw [hpl]; exact hop) (by rw [hpl]; exact hin) (by rw [hpl]; exact hex)
  rw [hu, hnext]
  exact ⟨by rw [State.setPort, State.setPl, hpl], rfl, rfl⟩

end

theorem settle_counters_same {s : State} (hop : ∀ work step, s.pl.op ≠ some ⟨work, .stepping step, false, false⟩) :
    (settle s).rc.counters = s.rc.counters := by
  unfold settle
  rw [portNext_counters_same (by simpa using hop)]
  simp

theorem settle_keeps_copy {s : State} (hplan : ∀ c, s.plan ≠ .ended c) :
    (settle s).sx.hand = s.sx.hand ∧ (settle s).sx.context = s.sx.context := by
  unfold settle
  rw [portNext_sx, rcTests_sx_hand, rcTests_sx_context]
  exact sxSettle_keeps_copy 4 hplan

/-- Settles O30: what the expander's settling leaves at the port decides which of the port's rules applies. -/
theorem progressIntervalEnds : Obligations.ProgressIntervalEnds := by
  unfold Obligations.ProgressIntervalEnds
  refine ⟨fun s work step hp hop hin => ⟨fun r hex => ⟨_, exec_progressIntervalEnd hp hop, ?paused⟩, fun hex => ?goesOn⟩,
    ?expansion, ?finished⟩
  case paused =>
    beta_reduce
    rw [portNext_pauses (s := s.setPl { s.pl with op := some ⟨work, .stepping step, false, false⟩ }) rfl hin hex]
    obtain ⟨hop', hport, hrc⟩ := suspendStep_serves (o := ⟨work, .stepping step, false, false⟩)
      (s := s.setPl { s.pl with op := some ⟨work, .stepping step, false, false⟩ }) hex
    exact ⟨hop', by rw [hport], by rw [hport], hrc⟩
  case goesOn =>
    rw [exec_progressIntervalEnd hp hop]
    exact congrArg _ (portNext_goesOn (s := s.setPl { s.pl with op := _ }) rfl hex)
  case expansion =>
    intro s work step interval m first last closing tag copy o i hr hop hport hx hplan htag hcopy hring hwait hcuts hmade
      ho hneed
    refine ⟨_, exec_expansionEvent hr hx hplan htag hcopy (readyState_of_room hring hwait hcuts), ?_⟩
    have hgoes : (appendRecord m tag copy first last s).sx.state.goesOn = true := by
      show s.sx.state.goesOn = true
      rw [hx]; rfl
    have hnext : (appendRecord m tag copy first last s).plan = .need i := by
      rw [← hneed]
      exact plan_congr rfl rfl rfl rfl rfl
    constructor
    · rintro rfl
      exact settle_suspends hgoes hnext hmade ho hport hop
    · rintro rfl
      exact settle_waits hgoes hnext hmade ho hport hop
  case finished =>
    intro s slot i live hr hin
    dsimp only
    rw [← segmentAddress_eq]
    refine ⟨_, exec_readComplete (powered_of_ready hr) hin, ?_⟩
    have hread : deliver (.expander slot i live) s.portFreed = s.portFreed.setSx { s.sx with hand :=
        if live then s.sx.hand ++ [(i, readSegment s.pl.array (segmentAddress slot i))] else s.sx.hand } :=
      expanderRead_eq slot i live s.portFreed
    rw [hread]
    generalize (if live then s.sx.hand ++ [(i, readSegment s.pl.array (segmentAddress slot i))] else s.sx.hand) = read
    have hplan : (s.portFreed.setSx { s.sx with hand := read }).plan = (s.setSx { s.sx with hand := read }).plan :=
      plan_congr rfl rfl rfl rfl rfl
    rw [← hplan]
    refine ⟨settle_pl_array _, settle_sw _, settle_queue _, fun hop => settle_counters_same hop, settle_keeps_copy,
      fun work step interval hop => ⟨?_, ?_, fun r hex => settle_serves_waiting hop rfl hex⟩⟩
    · rintro hex ⟨m, first, last, closing, hmake⟩
      exact settle_resumes hmake hop rfl hex
    · intro hex hidle hempty hend tag o j htag ho hneed
      exact settle_serves_need (goesOn_of hidle hempty hend) hneed htag ho hop rfl hex

end Sys2Proof.Machine
end

section
/-! SUPPORT. The Panel Queue's requests: what CANCEL leaves, and the order that ENQUEUE stores with the flags of its changed
fields. -/

namespace Sys2Proof.Machine

/-! ### CANCEL (R49, R50, R75) -/

theorem tag_of_findOrder {queue : List Order} {tag : Word16} {o : Order} (h : findOrder queue tag = some o) :
    o.tag = tag := by
  simpa using List.find?_some h

theorem takeUp_eq (o : Order) (copy : Nat) (s : State) : ∃ x, takeUp o copy s = s.setSx x := by
  unfold takeUp
  split
  · exact ⟨s.sx, rfl⟩
  · exact ⟨_, rfl⟩

/-- Leaving a removed order changes the expander and the read port alone. -/
theorem leaveOrder_eq (following : Option Order) (s : State) :
    ∃ x p, leaveOrder following s = (s.setSx x).setPort p := by
  have hrest : ∃ x p, s = (s.setSx x).setPort p := ⟨s.sx, s.pl.port, rfl⟩
  unfold leaveOrder
  split
  case h_1 | h_2 | h_3 => exact hrest
  all_goals
    dsimp only
    generalize hleft : (dropReads s).setSx _ = left
    have hput : ∀ x, left.setSx x = (s.setSx x).setPort (dropReads s).pl.port := fun x => by rw [← hleft]; rfl
    cases following with
    | none => exact ⟨_, _, hput _⟩
    | some o =>
      obtain ⟨x, hx⟩ := takeUp_eq o o.currentCopy left
      exact ⟨x, _, hx.trans (hput x)⟩

/-- Removing an order takes it from the queue; beside that the expander, the port and what settles change alone. -/
theorem cancelRemove_eq (o : Order) (s : State) :
    ∃ x p, cancelRemove o s = settle (((s.setQueue (removeOrder s.queue o.tag)).setSx x).setPort p) := by
  unfold cancelRemove
  dsimp only
  split
  · obtain ⟨x, p, h⟩ := leaveOrder_eq (orderAfter s.queue o.tag) (s.setQueue (removeOrder s.queue o.tag))
    exact ⟨x, p, congrArg settle h⟩
  · exact ⟨s.sx, s.pl.port, rfl⟩

theorem copyInHand_of_context {s : State} {o : Order} {copy : Nat} (htag : s.sx.context.tag = some o.tag)
    (hcopy : s.sx.context.copy = some copy) : s.copyInHand o = copy := by
  unfold State.copyInHand
  rw [htag, hcopy]
  exact if_pos rfl

section
variable {s : State} {sv : Service} {src : NodeId} {tag : Word16}

theorem exec_cancel_notFound (h : Serving s sv (.cancel src tag)) (ho : findOrder s.queue tag = none) :
    exec (.cancel src tag) s = .next (answer sv .notFound [] s) :=
  next_of_serving h (by rw [ho])

theorem exec_cancel_removes (h : Serving s sv (.cancel src tag)) {o : Order} (ho : findOrder s.queue tag = some o)
    (hclosed : o.isOpen s.sw.ring s.rc.openCopy = false) :
    exec (.cancel src tag) s = .next (answer sv .ok [] (cancelRemove o s)) :=
  next_of_serving h (by rw [ho]; exact if_neg (by simp [hclosed]))

theorem exec_cancel_trims (h : Serving s sv (.cancel src tag)) {o : Order} (ho : findOrder s.queue tag = some o)
    (hopen : o.isOpen s.sw.ring s.rc.openCopy = true) :
    exec (.cancel src tag) s = .next (answer sv .trimmed
      (octet (s.copyInHand o) ++ octet (s.copyInHand o - o.copiesEnded))
      (s.setQueue (updateOrder s.queue tag fun x => { x with copyLimit := s.copyInHand o }))) :=
  next_of_serving h (by rw [ho]; exact if_pos hopen)

end

/-- Settles O41, by the three outcomes of the search and of the test for an open copy. -/
theorem cancelRemovesOrTrims : Obligations.CancelRemovesOrTrims := by
  intro s sv src tag h
  refine ⟨fun ho => exec_cancel_notFound h ho, fun o ho hclosed => ?removed, fun o ho hopen htag copy hcopy => ?trimmed⟩
  case removed =>
    refine ⟨_, exec_cancel_removes h ho hclosed, ?_⟩
    obtain ⟨x, p, hleft⟩ := cancelRemove_eq o s
    rw [hleft, tag_of_findOrder ho]
    simp [answer_lp, removeOrder]
  case trimmed =>
    have hlimit : s.copyInHand o = copy := copyInHand_of_context (by rw [tag_of_findOrder ho]; exact htag) hcopy
    rw [exec_cancel_trims h ho hopen, hlimit]
    rfl

/-! ### ENQUEUE (R42 to R44) -/

theorem modeOfCode_isNone (m : Byte) : (modeOfCode m).isNone = true ↔ 1 < m.toNat := by
  unfold modeOfCode
  split <;> simp_all
  omega

theorem enqueueBad_iff (tag : Word16) (slot : Byte) (length : Word16) (mode : Byte) (groups : Word32) (copies : Byte) :
    enqueueBad tag slot length mode groups copies = true ↔
      tag = 0 ∨ 31 < slot.toNat ∨ length.toNat < 100 ∨ 40000 < length.toNat ∨ 1 < mode.toNat ∨ groups = 0 ∨ copies = 0 := by
  simp only [enqueueBad, Bool.or_eq_true, modeOfCode_isNone, beq_iff_eq, decide_eq_true_eq, or_assoc]

theorem closedInfo_of_closed {table : List SlotEntry} {slot : Nat} {info : SlotInfo}
    (h : tableEntry table slot = some (.closed info)) : closedInfo table slot = some info := by
  rw [closedInfo, h]

theorem closedInfo_of_not_closed {table : List SlotEntry} {slot : Nat}
    (h : ∀ info, tableEntry table slot ≠ some (.closed info)) : closedInfo table slot = none := by
  unfold closedInfo
  split
  · exact absurd ‹_› (h _)
  · rfl

theorem clampNat_eq {lo hi : Nat} (h : lo ≤ hi) (n : Nat) : clampNat n lo hi = max lo (min n hi) := by
  unfold clampNat
  (repeat' split) <;> omega

theorem clampNat_ne_iff {lo hi : Nat} (h : lo ≤ hi) (n : Nat) : clampNat n lo hi ≠ n ↔ n < lo ∨ hi < n := by
  rw [clampNat_eq h]
  omega

theorem storedTackCount_eq (n : Nat) : storedTackCount n = min 6 (n - n % 2) := by
  unfold storedTackCount
  split <;> omega

theorem storedTackCount_ne_iff (n : Nat) : storedTackCount n ≠ n ↔ n % 2 = 1 ∨ 6 < n := by
  rw [storedTackCount_eq]
  omega

/-- A field that is present is changed where its stored value is not the one given (R43). -/
theorem optionalChanged_field (x : Byte) (store : Nat → Nat) :
    optionalChanged x (optionalField x store) = decide (x ≠ 0xFF ∧ store x.toNat ≠ x.toNat) := by
  unfold optionalChanged optionalField
  split <;> simp_all [bne, Bool.beq_eq_decide_eq]

/-- Bit i of an octet of flags is the flag at i. -/
theorem flagOctet_bit (bits : List Bool) (i : Nat) :
    (flagOctet bits).getLsbD i = (decide (i < 8) && bits.getD i false) := by
  have htest : (bits.foldr (fun (b : Bool) n => 2 * n + b.toNat) 0).testBit i = bits.getD i false := by
    induction bits generalizing i with
    | nil => simp
    | cons b rest ih =>
      rw [List.foldr_cons, ← Nat.bit_val]
      cases i with
      | zero => simp
      | succ i => rw [Nat.testBit_bit_succ, ih]; rfl
  rw [flagOctet, BitVec.getLsbD_ofNat, htest]

/-- The flags of the changed fields, each read off the values given (R43). -/
theorem changedFields_newOrder (travel : Nat) (info : SlotInfo) (tag : Word16) (slot : Byte) (length gap : Word16)
    (mode stitch : Byte) (start : Word16) (groups : Word32) (tackCount tackLength copies : Byte) :
    (newOrder travel info tag slot length gap mode stitch start groups tackCount tackLength copies).changedFields gap stitch
        start tackCount tackLength =
      flagOctet [decide (2000 < gap.toNat), decide (stitch ≠ 0xFF ∧ (stitch.toNat < 10 ∨ 100 < stitch.toNat)),
        decide (travel < start.toNat), decide (tackCount ≠ 0xFF ∧ (tackCount.toNat % 2 = 1 ∨ 6 < tackCount.toNat)),
        decide (tackLength ≠ 0xFF ∧ (tackLength.toNat < 1 ∨ 20 < tackLength.toNat))] := by
  have hmin : ∀ n m : Nat, (min n m != n) = decide (m < n) := fun n m => by
    rw [bne, Bool.beq_eq_decide_eq, ← decide_not]
    exact decide_eq_decide.2 (by omega)
  simp only [newOrder, Order.changedFields, changedOctet, optionalChanged_field, hmin, storedTackCount_ne_iff,
    clampNat_ne_iff (show 10 ≤ 100 by decide), clampNat_ne_iff (show 1 ≤ 20 by decide)]

theorem clipExpected_iff (start travel : Nat) (info : SlotInfo) :
    clipExpected start travel info = true ↔ (start : Int) + info.xMin < 0 ∨ travel < start + info.xMax := by
  simp [clipExpected]

theorem orderJoined_eq (o : Order) (s : State) : ∃ x, orderJoined o s = s.setSx x := by
  unfold orderJoined
  split
  · exact takeUp_eq o 1 s
  · exact ⟨s.sx, rfl⟩

/-- What R42 asks of an order that joins: the fields in their ranges, a place, a tag of its own. -/
structure EnqueueTested (s : State) (tag : Word16) (slot : Byte) (length : Word16) (mode : Byte) (groups : Word32)
    (copies : Byte) : Prop where
  good : ¬ enqueueBad tag slot length mode groups copies = true
  place : s.queue.length < 8
  fresh : findOrder s.queue tag = none

section
variable {s : State} {sv : Service} {src : NodeId} {tag : Word16} {slot : Byte} {length gap : Word16} {mode stitch : Byte}
  {start : Word16} {groups : Word32} {tackCount tackLength copies : Byte}
  (h : Serving s sv (.enqueue src tag slot length gap mode stitch start groups tackCount tackLength copies))
include h

theorem exec_enqueue_bad (hbad : enqueueBad tag slot length mode groups copies = true) :
    exec (.enqueue src tag slot length gap mode stitch start groups tackCount tackLength copies) s =
      .next (answer sv .badParam [] s) := next_of_serving h (if_pos hbad)

theorem exec_enqueue_full (hgood : ¬ enqueueBad tag slot length mode groups copies = true) (hfull : 8 ≤ s.queue.length) :
    exec (.enqueue src tag slot length gap mode stitch start groups tackCount tackLength copies) s =
      .next (answer sv .full [] s) := next_of_serving h ((if_neg hgood).trans (if_pos hfull))

theorem exec_enqueue_duplicate (hgood : ¬ enqueueBad tag slot length mode groups copies = true)
    (hplace : s.queue.length < 8) (hdup : (findOrder s.queue tag).isSome = true) :
    exec (.enqueue src tag slot length gap mode stitch start groups tackCount tackLength copies) s =
      .next (answer sv .duplicate [] s) :=
  next_of_serving h ((if_neg hgood).trans ((if_neg (Nat.not_le.2 hplace)).trans (if_pos hdup)))

variable (ht : EnqueueTested s tag slot length mode groups copies)
include ht

theorem exec_enqueue_notClosed (hinfo : closedInfo s.pl.table slot.toNat = none) :
    exec (.enqueue src tag slot length gap mode stitch start groups tackCount tackLength copies) s =
      .next (answer sv .notClosed [] s) :=
  next_of_serving h ((if_neg ht.good).trans ((if_neg (Nat.not_le.2 ht.place)).trans
    ((if_neg (by simp [ht.fresh])).trans (by rw [hinfo]))))

variable {info : SlotInfo} (hinfo : closedInfo s.pl.table slot.toNat = some info)
include hinfo

theorem exec_enqueue_unfit (hunfit : info.reverse = true ∧ s.st.working.yRev = 0) :
    exec (.enqueue src tag slot length gap mode stitch start groups tackCount tackLength copies) s =
      .next (answer sv .patternUnfit [] s) :=
  next_of_serving h ((if_neg ht.good).trans ((if_neg (Nat.not_le.2 ht.place)).trans
    ((if_neg (by simp [ht.fresh])).trans (by rw [hinfo]; exact if_pos hunfit))))

/-- An order that passes every test joins the tail; beside it the expander and what settles change alone. -/
theorem exec_enqueue_joins (hfit : ¬ (info.reverse = true ∧ s.st.working.yRev = 0)) {o : Order} {changed : Byte}
    (ho : newOrder s.st.working.travel info tag slot length gap mode stitch start groups tackCount tackLength copies = o)
    (hchanged : o.changedFields gap stitch start tackCount tackLength = changed) :
    ∃ x, exec (.enqueue src tag slot length gap mode stitch start groups tackCount tackLength copies) s =
      .next (answer sv (if changed = 0 then .ok else .okClamped)
        [BitVec.ofNat 8 (s.queue.length + 1), boolOctet o.willClip, changed]
        (settle ((s.setQueue (s.queue ++ [o])).setSx x))) := by
  subst ho hchanged
  obtain ⟨x, hx⟩ := orderJoined_eq
    (newOrder s.st.working.travel info tag slot length gap mode stitch start groups tackCount tackLength copies)
    (s.setQueue (s.queue ++
      [newOrder s.st.working.travel info tag slot length gap mode stitch start groups tackCount tackLength copies]))
  refine ⟨x, next_of_serving h ((if_neg ht.good).trans ((if_neg (Nat.not_le.2 ht.place)).trans
    ((if_neg (by simp [ht.fresh])).trans ?_)))⟩
  rw [hinfo, ← hx]
  exact if_neg hfit

end

/-- Settles O40: the tests of R42 in their order, then the order that joins the tail. -/
theorem enqueueJoinsTail : Obligations.EnqueueJoinsTail := by
  intro s sv src tag slot length gap mode stitch start groups tackCount tackLength copies h
  refine ⟨fun hbad => exec_enqueue_bad h ((enqueueBad_iff ..).2 hbad), ?_⟩
  intro htag hslot hlo hhi hmode hgroups hcopies
  have hgood : ¬ enqueueBad tag slot length mode groups copies = true := by
    have hmode' : ¬ 1 < mode.toNat := by rcases hmode with rfl | rfl <;> decide
    rw [enqueueBad_iff]
    simp only [htag, hgroups, hcopies, false_or, or_false]
    omega
  refine ⟨exec_enqueue_full h hgood, exec_enqueue_duplicate h hgood, fun hplace hfresh hopen =>
    exec_enqueue_notClosed h ⟨hgood, hplace, hfresh⟩ (closedInfo_of_not_closed hopen), fun info hplace hfresh hclosed => ?_⟩
  have ht : EnqueueTested s tag slot length mode groups copies := ⟨hgood, hplace, hfresh⟩
  have hinfo := closedInfo_of_closed hclosed
  refine ⟨fun hrev hyrev => exec_enqueue_unfit h ht hinfo ⟨hrev, hyrev⟩, fun hserved => ?_⟩
  obtain ⟨x, hexec⟩ := exec_enqueue_joins h ht hinfo (fun hunfit => hserved hunfit.1 hunfit.2) rfl rfl
  have hmodes : (modeOfCode mode).getD .whole = if mode = 0 then .whole else .truncate := by
    rcases hmode with rfl | rfl <;> rfl
  have hstitch := fun n => clampNat_eq (show 10 ≤ 100 by decide) n
  have hlength := fun n => clampNat_eq (show 1 ≤ 20 by decide) n
  refine ⟨_, hexec, newOrder s.st.working.travel info tag slot length gap mode stitch start groups tackCount tackLength
    copies, by simp, rfl, rfl, rfl, rfl, hmodes, by simp only [newOrder, optionalField, hstitch], rfl, rfl,
    by simp only [newOrder, optionalField, storedTackCount_eq], by simp only [newOrder, optionalField, hlength],
    rfl, rfl, rfl, clipExpected_iff .., rfl, rfl, rfl, rfl, rfl, by simp, by simp, by simp, by simp, _,
    by rw [answer_lp, answer_lp, settle_lp_general]; rfl, ?_⟩
  rw [changedFields_newOrder]
  simp only [flagOctet_bit]
  refine ⟨rfl, rfl, rfl, rfl, rfl, fun i hi => ?_⟩
  rw [List.getD_eq_default _ _ hi, Bool.and_false]

end Sys2Proof.Machine
end

section
/-! SUPPORT. ABORT: what ending the noted copy leaves of the queue and the general places, and the state in STANDBY after the run
has been given up. -/

namespace Sys2Proof.Machine

/-! ### The end of the noted copy (R46, R48) -/

/-- The last copy that the order was to have has ended: the order leaves the queue (R46). -/
theorem endCopy_leaves {o : Order} (h : o.copyLimit ≤ o.copiesEnded + 1) (next : Order → Order) (queue : List Order) :
    endCopy next queue o = removeOrder queue o.tag :=
  if_pos (Nat.sub_eq_zero_of_le h)

/-- While copies are left the order goes on with the next one (R46). -/
theorem endCopy_goesOn {o : Order} (h : o.copiesEnded + 1 < o.copyLimit) (next : Order → Order) (queue : List Order) :
    endCopy next queue o = updateOrder queue o.tag next :=
  if_neg (Nat.sub_ne_zero_of_lt h)

/-- The PANEL_DONE of a copy that ended as aborted (R121, R178). -/
def abortedFrame (tag : Word16) (copy copiesLeft : Nat) : OutFrame :=
  ⟨31#5, .announce, 0x81, panelDoneOctets tag copy copiesLeft none, 2, 0, .none⟩

theorem panelDoneOctets_none (tag : Word16) (copy copiesLeft : Nat) :
    panelDoneOctets tag copy copiesLeft none = octets16 tag ++ octet copy ++ [1] ++ octet copiesLeft :=
  List.append_nil _

theorem abortCopy_of_none {s : State} {tag : Word16} (ho : findOrder s.queue tag = none) (copy : Nat) :
    abortCopy tag copy s = s := by
  rw [abortCopy, ho]

/-- Ending a copy as aborted reaches the queue, the general places and the count of aborted panels alone. -/
theorem abortCopy_of_some {s : State} {tag : Word16} {o : Order} (ho : findOrder s.queue tag = some o) (copy : Nat) :
    abortCopy tag copy s =
      ((s.countRun fun c => { c with aborted := saturatingSucc c.aborted }).setQueue
        (endCopy Order.endCopy s.queue o)).setLp (s.lp.offerAnnouncement (abortedFrame tag copy o.endCopy.copiesLeft)) := by
  rw [abortCopy, ho]
  rfl

theorem offerAnnouncement_of_free {lp : LinePort} (h : lp.placeFree = true) (f : OutFrame) :
    lp.offerAnnouncement f = { lp with general := lp.general ++ [f] } := if_pos h

theorem offerAnnouncement_of_full {lp : LinePort} (h : lp.placeFree = false) (f : OutFrame) :
    lp.offerAnnouncement f =
      { lp with counters := { lp.counters with dropped := saturatingSucc lp.counters.dropped } } :=
  if_neg (by simp [h])

/-- Of Run Control portNext moves the suspension count alone. -/
theorem portNext_rc_eq (s : State) : ∃ counters, (portNext s).rc = { s.rc with counters := counters } := by
  unfold portNext suspendStep State.setPort
  (repeat' split) <;> exact ⟨_, rfl⟩

/-! ### Giving the run up (R116) -/

/-- The noted copy, where there is one, ends as aborted. -/
def abortNoted (s : State) : State :=
  match s.rc.openCopy with
  | some (tag, copy) => abortCopy tag copy s
  | none => s

/-- The order waits for its next copy with nothing said about it. -/
def Order.unmarked (o : Order) : Order := { o with spliceLate := false, pendingLate := [] }

/-- The window given up, with both cursors at the counter (R94, R96). -/
def emptied (s : State) : State := (discard s).setSw ((discard s).sw.setCursors (discard s).sw.counter)

theorem abortNoted_of_none {s : State} (h : s.rc.openCopy = none) : abortNoted s = s := by
  rw [abortNoted, h]

theorem abortNoted_of_some {s : State} {tag : Word16} {copy : Nat} (h : s.rc.openCopy = some (tag, copy)) :
    abortNoted s = abortCopy tag copy s := by
  rw [abortNoted, h]

/-- The end of the noted copy reaches the queue, the Line Port and the count of aborted panels alone. -/
theorem abortNoted_eq (s : State) :
    ∃ n queue lp, abortNoted s = ((s.countRun fun c => { c with aborted := n }).setQueue queue).setLp lp := by
  have hsame : s = ((s.countRun fun c => { c with aborted := s.rc.counters.aborted }).setQueue s.queue).setLp s.lp := rfl
  cases hnote : s.rc.openCopy with
  | none => exact ⟨_, _, _, (abortNoted_of_none hnote).trans hsame⟩
  | some note =>
    obtain ⟨tag, copy⟩ := note
    rw [abortNoted_of_some hnote]
    cases ho : findOrder s.queue tag with
    | none => exact ⟨_, _, _, (abortCopy_of_none ho copy).trans hsame⟩
    | some o => exact ⟨_, _, _, abortCopy_of_some ho copy⟩

/-- The expander idle, the marks, the note and the causes cleared, HOLD released. -/
def released (s : State) : State :=
  (abortExpander (s.setQueue (s.queue.map Order.unmarked))).setRc
    { s.rc with
      openCopy := none
      causes := clearedCauses s.rc.causes (BitVec.allOnes 16) s.gh.broken
      holdDriven := false }

/-- An ABORT in the order of its parts. -/
theorem abortRun_eq (s : State) :
    abortRun s = portNext (enterRunState .standby .abort (released (abortNoted (emptied s)))) := rfl

section
variable (s : State)

theorem abortRun_queue : (abortRun s).queue = (abortNoted (emptied s)).queue.map Order.unmarked := by
  simp [abortRun_eq, released]

theorem abortRun_general : (abortRun s).lp.general = (abortNoted (emptied s)).lp.general := by
  simp [abortRun_eq, released]

theorem abortRun_lineCounters : (abortRun s).lp.counters = (abortNoted (emptied s)).lp.counters := by
  simp [abortRun_eq, released]

theorem abortRun_aborted : (abortRun s).rc.counters.aborted = (abortNoted (emptied s)).rc.counters.aborted := by
  obtain ⟨n, hn⟩ := portNext_counters (enterRunState .standby .abort (released (abortNoted (emptied s))))
  rw [abortRun_eq, hn]
  rfl

theorem abortRun_sw : (abortRun s).sw =
    { s.sw with ring := [], waiting := [], headNext := s.sw.counter, feedNext := s.sw.counter } := by
  obtain ⟨n, queue, lp, hnoted⟩ := abortNoted_eq (emptied s)
  rw [abortRun_eq, hnoted, portNext_sw, enterRunState_sw]
  rfl

theorem abortRun_gh : (abortRun s).gh = s.gh := by
  obtain ⟨n, queue, lp, hnoted⟩ := abortNoted_eq (emptied s)
  rw [abortRun_eq, hnoted]
  simp [released, emptied]

theorem abortRun_wt : (abortRun s).wt = (discard s).wt := by
  obtain ⟨n, queue, lp, hnoted⟩ := abortNoted_eq (emptied s)
  rw [abortRun_eq, hnoted, portNext_wt, enterRunState_wt]
  rfl

/-- The expander gives up its order, its segments and its checkpoint (R78). -/
theorem abortRun_sx : (abortRun s).sx =
    ⟨{ s.sx.context with tag := none, copy := none }, .idle, [], none⟩ := by
  obtain ⟨n, queue, lp, hnoted⟩ := abortNoted_eq (emptied s)
  rw [abortRun_eq, hnoted, portNext_sx, enterRunState_sx]
  rfl

/-- Run Control but for its counters (R116). -/
theorem abortRun_rc : (abortRun s).rc =
    { s.rc with
      state := .standby
      openCopy := none
      causes := clearedCauses s.rc.causes (BitVec.allOnes 16) s.gh.broken
      holdDriven := false
      counters := (abortRun s).rc.counters } := by
  obtain ⟨n, queue, lp, hnoted⟩ := abortNoted_eq (emptied s)
  rw [abortRun_eq, hnoted]
  obtain ⟨m, hm⟩ := portNext_rc_eq (enterRunState .standby .abort (released
    (((emptied s).countRun fun c => { c with aborted := n }).setQueue queue |>.setLp lp)))
  rw [hm]
  rfl

/-- STATE says STANDBY, reason ABORT, with the counter as the oldest serial (R120). -/
theorem abortRun_statePlace : (abortRun s).lp.statePlace.map OutFrame.params =
    some (0 :: octets16 (abortRun s).rc.causes ++ [boolOctet s.rc.endRequested] ++ octets32 s.sw.counter ++ [8, 0xFF]) := by
  obtain ⟨n, queue, lp, hnoted⟩ := abortNoted_eq (emptied s)
  rw [abortRun_rc, abortRun_eq, hnoted, portNext_lp]
  rfl

end

theorem discard_reservations {s : State} {x : Reservation} (h : x ∈ (discard s).wt.reservations) :
    ∀ r ∈ s.sw.ring, r.serial ≠ x.serial := by
  simpa [discard] using (List.mem_filter.1 h).2

/-- Of the causes a THREAD_BREAK that stands is left alone (R116). -/
theorem clearedCauses_all (causes : Word16) (broken : Word32) :
    clearedCauses causes (BitVec.allOnes 16) broken = if broken = 0 then 0 else causes &&& 0x0001 := by
  unfold clearedCauses
  split
  · simp
  · rfl

/-! ### The obligation -/

theorem unmarked_of_mem {queue : List Order} {o : Order} (h : o ∈ queue.map Order.unmarked) :
    o.spliceLate = false ∧ o.pendingLate = [] := by
  obtain ⟨x, -, rfl⟩ := List.mem_map.1 h
  exact ⟨rfl, rfl⟩

/-- ABORT in HALTED gives the run up. -/
theorem exec_abort_halted {s : State} {sv : Service} {src : NodeId} (h : Serving s sv (.abort src))
    (hrun : s.rc.state = .halted) :
    exec (.abort src) s = .next (answer sv .ok (noteOctets s.rc.openCopy) (abortRun s)) :=
  next_of_serving h (if_neg (not_not.2 hrun))

/-- Settles O49: what ABORT leaves whatever the note says, then the queue and the general places by the note. -/
theorem abortGivesUpRun : Obligations.AbortGivesUpRun := by
  intro s sv src h
  refine ⟨fun hrun => ⟨_, exec_abort_halted h hrun, ?_⟩, fun hrun => next_of_serving h (if_pos hrun)⟩
  have hrc := abortRun_rc s
  simp only [answer_sw, answer_rc, answer_sx, answer_queue, answer_wt, answer_gh, answer_lp]
  refine ⟨abortRun_sw s, by rw [hrc], by rw [hrc], by rw [hrc], by rw [hrc]; exact clearedCauses_all .., by rw [hrc],
    by rw [abortRun_sx], by rw [abortRun_sx], by rw [abortRun_sx], by rw [abortRun_sx], by rw [abortRun_sx],
    fun o ho => unmarked_of_mem (by rwa [abortRun_queue] at ho), fun x hx => discard_reservations (by rwa [abortRun_wt] at hx),
    abortRun_gh s, by rw [abortRun_wt]; rfl, by rw [abortRun_wt]; rfl, by rw [abortRun_wt]; rfl, by rw [abortRun_wt]; rfl,
    abortRun_statePlace s, fun hnote => ?absent, fun tag copy o hnote ho => ?noted⟩
  case absent =>
    rw [abortRun_queue, abortRun_aborted, abortRun_general, abortNoted_of_none (s := emptied s) hnote, hnote]
    exact ⟨rfl, rfl, rfl⟩
  case noted =>
    have hended : abortNoted (emptied s) = _ :=
      (abortNoted_of_some (s := emptied s) hnote).trans (abortCopy_of_some (s := emptied s) ho copy)
    have htag := tag_of_findOrder ho
    rw [abortRun_queue, abortRun_aborted, abortRun_general, abortRun_lineCounters, hended, hnote]
    refine ⟨rfl, fun hlast => ?leaves, fun hmore => ?goesOn, fun hfree => ?free, fun hfull => ?full⟩
    case leaves =>
      show (endCopy Order.endCopy s.queue o).map Order.unmarked = _
      rw [endCopy_leaves hlast, htag]
      rfl
    case goesOn =>
      show (endCopy Order.endCopy s.queue o).map Order.unmarked = _
      rw [endCopy_goesOn hmore, htag, updateOrder, List.map_map]
      refine List.map_congr_left fun x _ => ?_
      simp only [Function.comp_apply]
      split <;> rfl
    case free =>
      have hoffer := offerAnnouncement_of_free (lp := (emptied s).lp) hfree (abortedFrame tag copy o.endCopy.copiesLeft)
      rw [setLp_lp, hoffer, abortedFrame, panelDoneOctets_none]
      exact ⟨List.append_assoc .., rfl⟩
    case full =>
      have hoffer := offerAnnouncement_of_full (lp := (emptied s).lp) hfull (abortedFrame tag copy o.endCopy.copiesLeft)
      rw [setLp_lp, hoffer]
      exact ⟨rfl, rfl⟩

end Sys2Proof.Machine
end

section
/-! SUPPORT. The needle-up that retires a record: what the retirement hands to each block, and what follows at once in the expander
and in Run Control. -/

namespace Sys2Proof.Machine

/-! ### The window, the Web Tracker and the history (R91, R127, R140, R151) -/

/-- The oldest record is the one that leaves. -/
theorem remove_oldest {w : Window} {r : Record} {rest : List Record} (h : w.ring = r :: rest) :
    w.remove r.serial = { w with ring := rest } := by
  rw [Window.remove, h, List.eraseP_cons_of_pos (by simp)]

theorem joinWaiting_of_none {w : Window} (h : w.waiting = []) (n : Nat) : w.joinWaiting n = w := by
  cases n with
  | zero => rfl
  | succ n => rw [Window.joinWaiting, h]

theorem joinWaiting_of_full {w : Window} (h : 16 ≤ w.ring.length) (n : Nat) : w.joinWaiting n = w := by
  cases n with
  | zero => rfl
  | succ n =>
    unfold Window.joinWaiting
    split
    · rfl
    · exact if_neg (Nat.not_lt.2 h)

/-- Where one place is free, the first record that waits takes it (R95). -/
theorem joinWaiting_one {w : Window} {x : Record} {xs : List Record} (hw : w.waiting = x :: xs)
    (hring : w.ring.length = 15) (n : Nat) :
    w.joinWaiting (n + 1) = ({ w with waiting := xs } : Window).join x := by
  have hplace : w.ring.length < Config.windowSize := by rw [hring]; decide
  rw [Window.joinWaiting, hw]
  refine (if_pos hplace).trans (joinWaiting_of_full ?_ n)
  rw [Window.join, List.length_append, hring]
  rfl

/-- Records that join come behind those that stand. -/
theorem joinWaiting_ring_ne_nil {w : Window} (h : w.ring ≠ []) (n : Nat) : (w.joinWaiting n).ring ≠ [] := by
  induction n generalizing w with
  | zero => exact h
  | succ n ih =>
    unfold Window.joinWaiting
    split
    · exact h
    · split
      · exact ih (by simp [Window.join])
      · exact h

theorem retire_zones_of_backward {r : Record} (w : Web) (h : r.dy ≤ 0) : (w.retire r).zones = w.zones :=
  if_neg (Int.not_lt.2 h)

/-- A splice zone that the web has left behind goes (R151). -/
theorem retire_zones_of_forward {r : Record} (w : Web) (h : 0 < r.dy) : (w.retire r).zones =
    w.zones.filter fun z => decide (0 ≤ (z.last - (w.web + BitVec.ofInt 32 r.dy)).toInt) := by
  refine (if_pos h).trans (List.filter_congr fun z _ => ?_)
  rw [liesAfter_eq, Bool.not_not]
  rfl

theorem file_history_of_room {g : Groups} (h : g.history.length < 64) (r : Record) :
    (g.file r).history = g.history ++ [r.entry] := by
  have hnone : (g.history ++ [r.entry]).length - Config.historySize = 0 := by
    rw [List.length_append, Config.historySize, List.length_singleton]; omega
  rw [Groups.file, hnone, List.drop_zero]

theorem file_history_of_full {g : Groups} (h : g.history.length = 64) (r : Record) :
    (g.file r).history = g.history.drop 1 ++ [r.entry] := by
  have hone : (g.history ++ [r.entry]).length - Config.historySize = 1 := by
    rw [List.length_append, h]; rfl
  rw [Groups.file, hone, List.drop_append_of_le_length (by omega)]

/-! ### The record's retirement, block by block (R91) -/

/-- The record has left the window, and every block has what R91 hands to it; a copy that is complete has not ended yet. -/
def handedOver (r : Record) (s : State) : State :=
  { s with
    sw := s.sw.remove r.serial
    wt := s.wt.retire r
    gh := s.gh.file r
    sx := { s.sx with checkpoint := if r.context.isSome then r.context else s.sx.checkpoint }
    rc := { s.rc with counters := s.rc.counters.retire r.flags, openCopy := some (r.tag, r.copy) }
    queue := updateOrder s.queue r.tag fun o => o.accumulate r.flags }

/-- The same with the end of the copy, where the record was its last (R46). -/
def retirement (r : Record) (s : State) : State :=
  if r.flags.last then completeCopy r (handedOver r s) else handedOver r s

theorem retire_eq (r : Record) (s : State) : retire r s = placesFreed (retirement r s) := by
  unfold retire retirement
  cases hc : r.context with
  | none => simp only [handedOver, hc]; rfl
  | some c => simp only [handedOver, hc]; rfl

/-- The end of a copy reaches the cut list and the reservations of the Web Tracker alone. -/
theorem completeCopy_wt (r : Record) (s : State) :
    ∃ cuts reservations, (completeCopy r s).wt = { s.wt with cuts := cuts, reservations := reservations } := by
  unfold completeCopy
  split <;> exact ⟨_, _, rfl⟩

/-- Of the counters the end of a copy reaches that of completed panels alone. -/
theorem completeCopy_counters (r : Record) (s : State) :
    ∃ n, (completeCopy r s).rc.counters = { s.rc.counters with completed := n } := by
  unfold completeCopy
  split <;> exact ⟨_, rfl⟩

section
variable (r : Record) (s : State)

theorem retirement_sw : (retirement r s).sw = s.sw.remove r.serial := by
  unfold retirement; split <;> simp [handedOver]
theorem retirement_gh : (retirement r s).gh = s.gh.file r := by
  unfold retirement; split <;> simp [handedOver]
theorem retirement_sx : (retirement r s).sx = (handedOver r s).sx := by
  unfold retirement; split <;> simp
theorem retirement_state : (retirement r s).rc.state = s.rc.state := by
  unfold retirement; split <;> simp [handedOver]

theorem retirement_wt : ∃ cuts reservations,
    (retirement r s).wt = { s.wt.retire r with cuts := cuts, reservations := reservations } := by
  unfold retirement
  split
  · exact completeCopy_wt r (handedOver r s)
  · exact ⟨_, _, rfl⟩

theorem retirement_counters : ∃ n,
    (retirement r s).rc.counters = { s.rc.counters.retire r.flags with completed := n } := by
  unfold retirement
  split
  · exact completeCopy_counters r (handedOver r s)
  · exact ⟨_, rfl⟩

theorem retirement_causes : (retirement r s).rc.causes = s.rc.causes := by
  unfold retirement; split <;> simp [handedOver]
theorem retirement_endRequested : (retirement r s).rc.endRequested = s.rc.endRequested := by
  unfold retirement; split <;> simp [handedOver]

theorem retire_settles :
    retire r s = settle ((retirement r s).setSw ((s.sw.remove r.serial).joinWaiting 16)) := by
  rw [retire_eq, placesFreed, retirement_sw]
  rfl

theorem retire_sw : (retire r s).sw = (s.sw.remove r.serial).joinWaiting 16 := by
  rw [retire_settles, settle_sw, setSw_sw]

theorem retire_wt : ∃ cuts reservations,
    (retire r s).wt = { s.wt.retire r with cuts := cuts, reservations := reservations } := by
  rw [retire_eq, placesFreed_wt]
  exact retirement_wt r s

theorem retire_gh : (retire r s).gh = s.gh.file r := by
  rw [retire_eq, placesFreed_gh, retirement_gh]

theorem retire_checkpoint :
    (retire r s).sx.checkpoint = if r.context.isSome then r.context else s.sx.checkpoint := by
  rw [retire_eq, placesFreed_sx_checkpoint, retirement_sx]
  rfl

theorem retire_counters : ∃ n m,
    (retire r s).rc.counters = { s.rc.counters.retire r.flags with completed := n, suspensions := m } := by
  obtain ⟨n, hn⟩ := retirement_counters r s
  obtain ⟨m, hm⟩ := settle_counters ((retirement r s).setSw ((s.sw.remove r.serial).joinWaiting 16))
  refine ⟨n, m, ?_⟩
  rw [retire_settles, hm, setSw_rc, hn]

end

/-- A record that is not the last of its copy counts for its order and names the copy in the note; the copy goes on (R41, R115). -/
theorem retire_of_not_last {r : Record} (h : r.flags.last = false) (s : State) :
    (retire r s).rc.openCopy = some (r.tag, r.copy) ∧ (retire r s).lp.general = s.lp.general ∧
      (retire r s).wt = s.wt.retire r ∧
      (retire r s).queue = updateOrder s.queue r.tag fun o => o.accumulate r.flags := by
  have hgoes : retirement r s = handedOver r s := if_neg (by simp [h])
  rw [retire_eq, hgoes, placesFreed_rc_openCopy, placesFreed_lp_general, placesFreed_wt, placesFreed_queue]
  exact ⟨rfl, rfl, rfl, rfl⟩

/-! ### What follows at once in Run Control (R102, R110) -/

theorem rcTests_rests {s : State} (hrun : s.rc.state ≠ .priming) (hgoes : s.runDone = false) : rcTests s = s := by
  have hprimed : s.primed = false := by simp [State.primed, hrun]
  simp [rcTests, hprimed, hgoes]

/-- RUN goes on while a record stands in the window. -/
theorem settle_state_of_window {s : State} (hrun : s.rc.state = .run) (hring : s.sw.ring ≠ []) :
    (settle s).rc.state = .run := by
  rw [settle, portNext_rc_state, rcTests_rests (by simp [hrun]) (by simp [State.runDone, hring]), sxSettle_rc, hrun]

/-- In RUN an empty window ends the run where the expander holds for want of an order, or was asked to end (R110). -/
theorem settle_completes {s : State} (hrun : s.rc.state = .run) (hring : s.sw.ring = [])
    (hx : s.sx.state = .holding .queueEmpty ∨ s.sx.state = .holding .endRequested) :
    (settle s).rc.state = .standby ∧ (settle s).sx.state = .idle ∧ (settle s).lp.statePlace.map OutFrame.params =
      some (0 :: octets16 s.rc.causes ++ [boolOctet s.rc.endRequested] ++ octets32 s.sw.counter ++ [7, 0xFF]) := by
  have hrests : sxSettle 4 s = s := sxSettle_rests 4 (by rcases hx with hx | hx <;> rw [hx] <;> rfl)
  have hprimed : s.primed = false := by simp [State.primed, hrun]
  have hdone : s.runDone = true := by simp [State.runDone, hrun, hring, hx]
  have htests : rcTests s = enterRunState .standby .runComplete (s.setSx { s.sx with state := .idle }) := by
    simp [rcTests, hprimed, hdone]
  rw [settle, hrests, htests, portNext_rc_state, portNext_sx, portNext_lp]
  refine ⟨rfl, rfl, ?_⟩
  have holdest : s.sw.oldest = s.sw.counter := by rw [Window.oldest, hring]; rfl
  rw [← holdest]
  rfl

/-! ### What follows at once in the expander (R55, R74) -/

/-- A copy ends in its phase DONE. -/
theorem advance_ended_done {e : CopyEnv} {last d : Context} {n : Nat} {c : Context} {hand : List (Nat × Segment)}
    (h : advance e last n c hand = .ended d) : d.phase = .done := by
  induction n generalizing c hand with
  | zero => cases h
  | succ n ih =>
    rw [advance_succ] at h
    (repeat' split at h) <;> grind

theorem plan_of_done {s : State} (h : s.sx.context.phase = .done) : s.plan = .ended s.sx.context := if_pos h

theorem plan_ended_done {s : State} {c : Context} (h : s.plan = .ended c) : c.phase = .done := by
  unfold State.plan at h
  split at h
  · next hdone => cases h; exact hdone
  · split at h
    · cases h
    · split at h
      · cases h
      · next e _ =>
        unfold CopyEnv.plan at h
        split at h
        · cases h
        · next hended => cases h; exact advance_ended_done hended
        · cases h
        · dsimp only at h
          split at h <;> cases h

theorem sxSettle_ended {s : State} (n : Nat) (hx : s.sx.state.goesOn = true) {c : Context} (hp : s.plan = .ended c) :
    sxSettle (n + 1) s =
      sxSettle n (decideNext (s.setSx { s.sx with context := c, hand := [], state := .expanding })) := by
  rw [sxSettle, hp]
  split <;> simp_all [ExpanderState.goesOn]

/-- After a copy's end the expander goes on with a copy, or holds for want of one (R74). -/
theorem decideNext_state {s : State} (hx : s.sx.state = .expanding) :
    (decideNext s).sx.state = .expanding ∨
      ∃ why, decideNext s = hold why s ∧ (ExpanderState.holding why).goesOn = false := by
  have htake : ∀ o copy, (takeUp o copy s).sx.state = .expanding := fun o copy => by
    unfold takeUp
    split
    · exact hx
    · rfl
  unfold decideNext
  split
  · exact .inr ⟨_, rfl, rfl⟩
  · split
    · exact .inl (htake ..)
    · split
      · exact .inl (htake ..)
      · exact .inr ⟨_, rfl, rfl⟩

/-- With a place in the window, and in the cut list for a closing record, the expander does not hold before a record that can be
made. -/
theorem sxSettle_expands (n : Nat) {s : State} {m : Making} {first last closing : Bool}
    (hx : s.sx.state = .expanding ∨ 0 < n ∧ s.sx.state.goesOn = true) (hring : s.sw.ring.length < 16)
    (hwait : s.sw.waiting = []) (hplan : (sxSettle n s).plan = .make m first last closing)
    (hcuts : closing = true → s.wt.cuts.length + s.wt.reservations.length < 8) :
    (sxSettle n s).sx.state = .expanding := by
  induction n generalizing s with
  | zero =>
    rcases hx with hx | ⟨hpos, -⟩
    · exact hx
    · exact absurd hpos (Nat.lt_irrefl 0)
  | succ n ih =>
    have hgoes : s.sx.state.goesOn = true := by
      rcases hx with hx | ⟨-, hx⟩
      · rw [hx]; rfl
      · exact hx
    cases hp : s.plan with
    | need i => rw [sxSettle_need n hgoes hp, askSegment_sx]; rfl
    | make m' first' last' closing' =>
      rw [sxSettle_make n hgoes hp] at hplan ⊢
      have hsame : s.plan = .make m first last closing := (plan_congr rfl rfl rfl rfl rfl).trans hplan
      rw [hp] at hsame
      cases hsame
      exact readyState_of_room hring hwait hcuts
    | stuck =>
      rw [sxSettle_stuck _ hp, hp] at hplan
      cases hplan
    | ended c =>
      rw [sxSettle_ended n hgoes hp] at hplan ⊢
      rcases decideNext_state (s := s.setSx { s.sx with context := c, hand := [], state := .expanding }) rfl with
        hnext | ⟨why, hhold, hrests⟩
      · exact ih (.inl hnext) (by simpa using hring) (by simpa using hwait) hplan (by simpa using hcuts)
      · rw [hhold, sxSettle_rests n hrests, plan_of_done (plan_ended_done hp)] at hplan
        cases hplan

/-- The same once Run Control and the port have followed, where the part does not prime (R55, R102). -/
theorem settle_expands {s : State} {m : Making} {first last closing : Bool} (hrun : s.rc.state ≠ .priming)
    (hx : s.sx.state.goesOn = true) (hring : s.sw.ring.length < 16) (hwait : s.sw.waiting = [])
    (hplan : (settle s).plan = .make m first last closing)
    (hcuts : closing = true → s.wt.cuts.length + s.wt.reservations.length < 8) :
    (settle s).sx.state = .expanding := by
  have hsame : (settle s).plan = (sxSettle 4 s).plan :=
    plan_congr (by simp [settle]) (by simp [settle]) (by simp) (by simp) (by simp)
  have hexpands := sxSettle_expands 4 (.inr ⟨by decide, hx⟩) hring hwait (hsame ▸ hplan) hcuts
  have hrests : rcTests (sxSettle 4 s) = sxSettle 4 s :=
    rcTests_rests (by simpa using hrun) (by simp [State.runDone, hexpands])
  rw [settle, portNext_sx, hrests, hexpands]

/-! ### What follows a retirement at once (R91, R102, R103) -/

section
variable {r : Record} {s : State}

theorem retire_state_of_halting (hhalt : s.rc.state = .halting) : (retire r s).rc.state = .halting := by
  have hstate : ((retirement r s).setSw ((s.sw.remove r.serial).joinWaiting 16)).rc.state = .halting :=
    (retirement_state r s).trans hhalt
  rw [retire_settles, settle_state_same (by rw [hstate]; nofun) (by rw [hstate]; nofun), hstate]

theorem retire_state_of_window (hrun : s.rc.state = .run) (hring : (s.sw.remove r.serial).ring ≠ []) :
    (retire r s).rc.state = .run := by
  rw [retire_settles]
  exact settle_state_of_window ((retirement_state r s).trans hrun) (joinWaiting_ring_ne_nil hring 16)

theorem retire_completes (hrun : s.rc.state = .run) (hring : (s.sw.remove r.serial).ring = [])
    (hwait : s.sw.waiting = []) (hx : s.sx.state = .holding .queueEmpty ∨ s.sx.state = .holding .endRequested) :
    (retire r s).rc.state = .standby ∧ (retire r s).sx.state = .idle ∧
      (retire r s).lp.statePlace.map OutFrame.params =
        some (0 :: octets16 s.rc.causes ++ [boolOctet s.rc.endRequested] ++ octets32 s.sw.counter ++ [7, 0xFF]) := by
  rw [retire_settles, joinWaiting_of_none (w := s.sw.remove r.serial) hwait, ← retirement_causes r s,
    ← retirement_endRequested r s]
  refine settle_completes ((retirement_state r s).trans hrun) hring ?_
  rw [setSw_sx, retirement_sx]
  exact hx

theorem retire_expands {m : Making} {first last closing : Bool} (hrun : s.rc.state ≠ .priming)
    (hx : s.sx.state = .holding .windowFull) (hring : (s.sw.remove r.serial).ring.length < 16)
    (hwait : s.sw.waiting = []) (hplan : (retire r s).plan = .make m first last closing)
    (hcuts : closing = true → (retire r s).wt.cuts.length + (retire r s).wt.reservations.length < 8) :
    (retire r s).sx.state = .expanding := by
  rw [retire_settles, joinWaiting_of_none (w := s.sw.remove r.serial) hwait] at hplan hcuts ⊢
  rw [settle_wt] at hcuts
  refine settle_expands ?_ ?_ hring hwait hplan hcuts
  · rw [setSw_rc, retirement_state]; exact hrun
  · rw [setSw_sx, retirement_sx]
    show s.sx.state.goesOn = true
    rw [hx]
    rfl

end

/-! ### The obligation -/

/-- The part with its stop-silence timer at a value. -/
def State.withSilence (s : State) (timer : Option Nat) : State := s.setRc { s.rc with silence := timer }

/-- In RUN and in HALTING a needle-up retires the oldest record that both drives have taken; in HALTING the stop-silence timer
restarts before (R102, R103). -/
theorem exec_needleUp_retires {s : State} {inactiveUs : Nat} {r : Record} {rest : List Record} (hr : s.ready = true)
    (hinactive : 2000 ≤ inactiveUs) (hstate : s.rc.state = .run ∨ s.rc.state = .halting) (hring : s.sw.ring = r :: rest)
    (hkind : r.kind ≠ .reposition) (hhead : r.takenHead = true) (hfeed : r.takenFeed = true) :
    ∃ timer, exec (.needleUp inactiveUs) s = .next (retire r (s.withSilence timer)) ∧
      (s.rc.state = .run → timer = s.rc.silence) ∧
      (s.rc.state = .halting → timer = some s.st.working.stopSilence) := by
  have hfinds : s.sw.finding = .retired r := by
    rw [Window.finding, hring]
    exact if_pos ⟨hkind, hhead, hfeed⟩
  have hexec : exec (.needleUp inactiveUs) s = .next (needleUp s) := by
    show Host.Outcome.next (whenReady s _) = _
    rw [whenReady_of hr]
    exact congrArg _ (if_pos hinactive)
  rcases hstate with hrun | hhalt
  · refine ⟨s.rc.silence, ?_, fun _ => rfl, fun hhalt => absurd (hrun.symm.trans hhalt) nofun⟩
    rw [hexec, needleUp, hrun]
    dsimp only
    rw [needleUpRun, hfinds]
    rfl
  · refine ⟨some s.st.working.stopSilence, ?_, fun hrun => absurd (hrun.symm.trans hhalt) nofun, fun _ => rfl⟩
    rw [hexec, needleUp, hhalt]
    dsimp only
    rw [needleUpHalting]
    dsimp only
    rw [setRc_sw, hfinds]
    rfl

/-- Settles O21, by what the retirement hands to each block and what follows at once. -/
theorem needleUpRetiresOldest : Obligations.NeedleUpRetiresOldest := by
  intro s inactiveUs r rest hr hinactive hstate hring hkind hhead hfeed
  obtain ⟨timer, hexec, hrunTimer, hhaltTimer⟩ :=
    exec_needleUp_retires hr hinactive hstate hring hkind hhead hfeed
  have hremove : (s.withSilence timer).sw.remove r.serial = { s.sw with ring := rest } :=
    remove_oldest hring
  have hpriming : s.rc.state ≠ .priming := by rcases hstate with h | h <;> rw [h] <;> nofun
  obtain ⟨cuts, reservations, hwt⟩ := retire_wt r (s.withSilence timer)
  obtain ⟨completed, suspensions, hcounters⟩ := retire_counters r (s.withSilence timer)
  refine ⟨_, hexec, fun hwait => ?alone, fun x xs hwait hlen => ?joined, by rw [hwt]; rfl, by rw [hwt]; rfl, by rw [hwt]; rfl,
    fun hdy => ?backward, fun hdy => ?forward, ⟨fun hroom => ?room, fun hfull => ?full⟩, fun hlast => ?last,
    fun hlast hfirst => ?first, fun hlast hfirst => ?between, by rw [retire_gh]; rfl, by rw [retire_gh]; rfl,
    retire_checkpoint .., by rw [hcounters]; rfl, by rw [hcounters]; rfl, by rw [hcounters]; rfl, fun hlast => ?goesOn,
    fun hhalt => ?halting, fun hrun hrest => ?stands, fun hrun hrest hwait hx => ?completes,
    fun hx hwait hlen m first last closing hplan hcuts => ?expands, retire_rc_causes ..,
    retire_st .., retire_pins .., retire_pl_array ..⟩
  case alone =>
    rw [retire_sw, hremove]
    exact joinWaiting_of_none (w := { s.sw with ring := rest }) hwait 16
  case joined =>
    have hfree : rest.length = 15 := by rw [hring, List.length_cons] at hlen; omega
    rw [retire_sw, hremove]
    exact joinWaiting_one (w := { s.sw with ring := rest }) hwait hfree 15
  case backward => rw [hwt]; exact retire_zones_of_backward s.wt hdy
  case forward => rw [hwt]; exact retire_zones_of_forward s.wt hdy
  case room => rw [retire_gh]; exact file_history_of_room hroom r
  case full => rw [retire_gh]; exact file_history_of_full hfull r
  case last => rw [retire_gh]; exact if_pos hlast
  case first => rw [retire_gh]; exact (if_neg (by simp [hlast])).trans (if_pos hfirst)
  case between => rw [retire_gh]; exact (if_neg (by simp [hlast])).trans (if_neg (by simp [hfirst]))
  case goesOn =>
    obtain ⟨hnote, hgeneral, hweb, hqueue⟩ := retire_of_not_last hlast (s.withSilence timer)
    exact ⟨hnote, hgeneral, by rw [hweb]; rfl, by rw [hweb]; rfl, hqueue⟩
  case halting => exact ⟨retire_state_of_halting hhalt, by rw [retire_rc_silence]; exact hhaltTimer hhalt⟩
  case stands =>
    exact ⟨retire_state_of_window hrun (by rw [hremove]; exact hrest), by rw [retire_rc_silence]; exact hrunTimer hrun⟩
  case completes => exact retire_completes hrun (by rw [hremove]; exact hrest) hwait hx
  case expands => exact retire_expands hpriming hx (by rw [hremove]; exact hlen) hwait hplan hcuts

end Sys2Proof.Machine
end

section
/-! SUPPORT. The arithmetic of a copy: rounded division, the clamp, and the step count of a RUN segment. -/

namespace Sys2Proof.Machine

/-! ### Rounded division (R58) -/

theorem rdiv_of_nonneg {p : Int} (hp : 0 ≤ p) (n : Nat) : rdiv p n = (2 * p + n) / (2 * n) := by
  rw [rdiv, if_pos hp]
  push_cast
  rw [abs_of_nonneg hp]

/-- A dividend and its mirror image give mirrored quotients. -/
theorem rdiv_neg (p : Int) (n : Nat) : rdiv (-p) n = -rdiv p n := by
  rcases lt_trichotomy p 0 with hp | rfl | hp
  · rw [rdiv, rdiv, if_pos (by omega), if_neg (by omega), Int.natAbs_neg, neg_neg]
  · rw [neg_zero, rdiv_zero, neg_zero]
  · rw [rdiv, rdiv, if_neg (by omega), if_pos (by omega), Int.natAbs_neg]

/-- What holds of the dividends of 0 or more, and of a mirror image with its dividend, holds of all. -/
theorem forall_of_nonneg_of_neg {P : Int → Prop} (hpos : ∀ p, 0 ≤ p → P p) (hneg : ∀ p, P p → P (-p)) (p : Int) :
    P p := by
  rcases le_total 0 p with hp | hp
  · exact hpos p hp
  · exact neg_neg p ▸ hneg (-p) (hpos (-p) (by omega))

/-- No whole number is nearer to the quotient by more than a half. -/
theorem rdiv_nearest {n : Nat} (hn : 1 ≤ n) (p : Int) : 2 * (n * rdiv p n - p).natAbs ≤ n := by
  refine forall_of_nonneg_of_neg (P := fun p => 2 * (n * rdiv p n - p).natAbs ≤ n) (fun p hp => ?_) (fun p hp => ?_) p
  · have hlow := Int.mul_ediv_self_le (x := 2 * p + n) (k := 2 * n) (by omega)
    have hhigh := Int.lt_mul_ediv_self_add (x := 2 * p + n) (k := 2 * n) (by omega)
    rw [← rdiv_of_nonneg hp, mul_assoc] at hlow hhigh
    omega
  · have hmirror : (n : Int) * rdiv (-p) n - -p = -(n * rdiv p n - p) := by rw [rdiv_neg]; ring
    rw [hmirror, Int.natAbs_neg]
    exact hp

/-- Settles O15. -/
theorem roundedDivision : Obligations.RoundedDivision :=
  fun p n hn => ⟨fun hp => rdiv_of_nonneg hp n, rdiv_neg p n, rdiv_nearest hn p⟩

/-! ### The steps of a move (R60) -/

section
variable {n : Nat} {p q a x : Int}

theorem rdiv_add_mul (hn : 1 ≤ n) (hp : 0 ≤ p) (hx : 0 ≤ x) : rdiv (p + x * n) n = rdiv p n + x := by
  have hq : 0 ≤ p + x * n := by positivity
  have hsplit : 2 * (p + x * n) + n = (2 * p + n) + x * (2 * n) := by ring
  rw [rdiv_of_nonneg hq, rdiv_of_nonneg hp, hsplit, Int.add_mul_ediv_right _ _ (by omega)]

theorem rdiv_mono (hn : 1 ≤ n) (hp : 0 ≤ p) (hpq : p ≤ q) : rdiv p n ≤ rdiv q n := by
  rw [rdiv_of_nonneg hp, rdiv_of_nonneg (hp.trans hpq)]
  exact Int.ediv_le_ediv (by omega) (by omega)

/-- The steps of a move sum exactly to it. -/
theorem rdiv_mul_self (hn : 1 ≤ n) (a : Int) : rdiv (a * n) n = a := by
  refine forall_of_nonneg_of_neg (P := fun a => rdiv (a * n) n = a) (fun a ha => ?_) (fun a ha => ?_) a
  · simpa [rdiv_zero] using rdiv_add_mul hn le_rfl ha
  · rw [neg_mul, rdiv_neg, ha]

/-- The k-th step of a move forwards is no step back, and no longer than the limit that the step count was made for. -/
theorem rdiv_step_forward (hn : 1 ≤ n) (ha : 0 ≤ a) (hx : a ≤ x * n) (k : Nat) :
    0 ≤ rdiv (a * (k + 1 : Nat)) n - rdiv (a * k) n ∧ rdiv (a * (k + 1 : Nat)) n - rdiv (a * k) n ≤ x := by
  have hk : 0 ≤ a * k := by positivity
  have hnext : a * (k + 1 : Nat) = a * k + a := by push_cast; ring
  have hxn : 0 ≤ x := nonneg_of_mul_nonneg_left (ha.trans hx) (by exact_mod_cast hn)
  have hlow : rdiv (a * k) n ≤ rdiv (a * k + a) n := rdiv_mono hn hk (by omega)
  have hhigh : rdiv (a * k + a) n ≤ rdiv (a * k) n + x :=
    rdiv_add_mul hn hk hxn ▸ rdiv_mono hn (by omega) (by omega)
  rw [hnext]
  omega

/-- The mirror image, for a move backwards. -/
theorem rdiv_step_backward (hn : 1 ≤ n) (ha : a ≤ 0) (hx : -a ≤ x * n) (k : Nat) :
    -x ≤ rdiv (a * (k + 1 : Nat)) n - rdiv (a * k) n ∧ rdiv (a * (k + 1 : Nat)) n - rdiv (a * k) n ≤ 0 := by
  have hmirror := rdiv_step_forward hn (a := -a) (by omega) hx k
  rw [neg_mul, neg_mul, rdiv_neg, rdiv_neg] at hmirror
  omega

/-- In either direction. -/
theorem rdiv_step_natAbs (hn : 1 ≤ n) {x : Nat} (hx : a.natAbs ≤ x * n) (k : Nat) :
    (rdiv (a * (k + 1 : Nat)) n - rdiv (a * k) n).natAbs ≤ x := by
  have hlimit : (a.natAbs : Int) ≤ x * n := by exact_mod_cast hx
  rcases le_total 0 a with ha | ha
  · have := rdiv_step_forward hn ha (x := x) (by omega) k
    omega
  · have := rdiv_step_backward hn ha (x := x) (by omega) k
    omega

end

/-! ### The clamp (R61) -/

theorem clampInt_mem {lo hi : Int} (h : lo ≤ hi) (v : Int) : lo ≤ clampInt v lo hi ∧ clampInt v lo hi ≤ hi := by
  unfold clampInt
  split
  · omega
  · split <;> omega

/-- The clamp moves a value exactly where it lies outside. -/
theorem clampInt_ne_iff (v lo hi : Int) : v ≠ clampInt v lo hi ↔ v < lo ∨ hi < v := by
  unfold clampInt
  split
  · omega
  · split <;> omega

/-- The clamp can only shorten a step (R62). -/
theorem clampInt_sub_le {lo hi : Int} (h : lo ≤ hi) (u v : Int) :
    (clampInt u lo hi - clampInt v lo hi).natAbs ≤ (u - v).natAbs := by
  have hone : ∀ w, clampInt w lo hi = max lo (min hi w) := fun w => by
    unfold clampInt
    split
    · omega
    · split <;> omega
  rw [hone, hone]
  omega

/-! ### The step count of a RUN segment (R59) -/

theorem le_mul_of_ceilDiv_le {p x n : Nat} (hx : 1 ≤ x) (h : ceilDiv p x ≤ n) : p ≤ x * n := by
  have hlt : p + x - 1 < x * (n + 1) := by
    rw [mul_comm]
    exact (Nat.div_lt_iff_lt_mul hx).mp (Nat.lt_succ_of_le h)
  rw [mul_add_one] at hlt
  omega

section
variable (st : Settings) (stitch : Nat) (g : Segment)

theorem runSteps_pos : 1 ≤ runSteps st stitch g := le_max_left _ _

theorem natAbs_dx_le_runSteps (hx : 1 ≤ st.xMax) : g.a.natAbs ≤ st.xMax * runSteps st stitch g := by
  refine le_mul_of_ceilDiv_le hx ?_
  unfold runSteps
  dsimp only
  omega

theorem natAbs_dy_le_runSteps (hy : 1 ≤ if 0 ≤ g.b then st.yFwd else st.yRev) :
    g.b.natAbs ≤ (if 0 ≤ g.b then st.yFwd else st.yRev) * runSteps st stitch g := by
  refine le_mul_of_ceilDiv_le hy ?_
  unfold runSteps
  dsimp only
  omega

/-- The feed of each step of a RUN stays within Yfwd and Yrev (R62). -/
theorem sew_dy_within (hfwd : 1 ≤ st.yFwd) (hrev : g.b < 0 → 1 ≤ st.yRev) (k : Nat) :
    -(st.yRev : Int) ≤ rdiv (g.b * (k + 1 : Nat)) (runSteps st stitch g) - rdiv (g.b * k) (runSteps st stitch g) ∧
      rdiv (g.b * (k + 1 : Nat)) (runSteps st stitch g) - rdiv (g.b * k) (runSteps st stitch g) ≤ st.yFwd := by
  have hlimit := natAbs_dy_le_runSteps st stitch g
  have hn := runSteps_pos st stitch g
  by_cases hb : 0 ≤ g.b
  · rw [if_pos hb] at hlimit
    have hlimit : (g.b.natAbs : Int) ≤ st.yFwd * runSteps st stitch g := by exact_mod_cast hlimit hfwd
    have hstep := rdiv_step_forward hn hb (x := st.yFwd) (by omega) k
    omega
  · rw [if_neg hb] at hlimit
    have hlimit : (g.b.natAbs : Int) ≤ st.yRev * runSteps st stitch g := by exact_mod_cast hlimit (hrev (by omega))
    have hstep := rdiv_step_backward hn (a := g.b) (x := st.yRev) (by omega) (by omega) k
    omega

end

/-- Settles O16: each step of the intended path is within its limit, and the clamp only shortens the lateral one. -/
theorem sewStepsWithinLimits : Obligations.SewStepsWithinLimits := by
  intro st stitch g base k hx hfwd hrev n lateral dy
  have hn : 1 ≤ n := runSteps_pos st stitch g
  refine ⟨fun hk _ => ?_, rdiv_mul_self hn g.a, rdiv_mul_self hn g.b⟩
  obtain ⟨j, rfl⟩ : ∃ j, k = j + 1 := ⟨k - 1, by omega⟩
  refine ⟨?_, sew_dy_within st stitch g hfwd hrev j⟩
  calc (lateral (j + 1) - lateral j).natAbs
      ≤ (base + rdiv (g.a * (j + 1 : Nat)) n - (base + rdiv (g.a * j) n)).natAbs := clampInt_sub_le (by omega) _ _
    _ = (rdiv (g.a * (j + 1 : Nat)) n - rdiv (g.a * j) n).natAbs := by rw [add_sub_add_left_eq_sub]
    _ ≤ st.xMax := rdiv_step_natAbs hn (natAbs_dx_le_runSteps st stitch g hx) j

end Sys2Proof.Machine
end

section
/-! SUPPORT. The records the expander makes: what a record takes from the context, which record is the last, and the record that
joins the window at an expansion event. -/

namespace Sys2Proof.Machine

/-! ### The record of a context (R56, R60, R61, R64) -/

/-- The kind of a segment's records: SEW of a RUN, JUMP of a JUMP (R60, R63). -/
def Segment.recordKind (g : Segment) : Kind := if g.op = some .run then .sew else .jump

theorem Segment.planned_recordKind (g : Segment) (groups : Word32) :
    (if g.recordKind = .jump then 0 else groups) = if g.op = some .run then groups else 0 := by
  unfold Segment.recordKind
  split <;> rfl

theorem Segment.sews_recordKind (g : Segment) : decide (g.recordKind = .sew) = decide (g.op = some .run) := by
  unfold Segment.recordKind
  split <;> simp [*]

/-- One step of the lead-in: sideways alone, whatever base y the context holds (R67). -/
def CopyEnv.leadInStep (e : CopyEnv) (c : Context) (hand : List (Nat × Segment)) : Making :=
  { makeStep e { c with baseY := c.panelY } .jump (e.order.start - c.baseLateral) 0 [] with hand := hand }

/-- One step of the run-out (R71). -/
def CopyEnv.runOutStep (e : CopyEnv) (c : Context) : Making :=
  makeStep e c .jump (e.order.start - c.baseLateral) (e.order.length - c.baseY + e.order.gap) []

section
variable (e : CopyEnv) (c : Context) (hand : List (Nat × Segment))

/-- Every record leads from the context by some feed step to another. -/
theorem makeRecord_eq_record : ∃ c' kind dy hand', makeRecord e c hand = e.record c c' kind dy hand' := by
  unfold makeRecord
  split
  · exact ⟨_, _, _, _, rfl⟩
  · split <;> exact ⟨_, _, _, _, rfl⟩

variable {e c hand}

theorem makeRecord_of_tack {t : TackPhase} (ht : c.tack = some t) : makeRecord e c hand = makeTack e c t hand := by
  cases c; cases ht; rfl

theorem makeRecord_of_leadIn (ht : c.tack = none) (hphase : c.phase = .leadIn) :
    makeRecord e c hand = e.leadInStep c hand := by
  cases c; cases ht; cases hphase; rfl

theorem makeRecord_of_body {i : Nat} {g : Segment} {rest : List (Nat × Segment)} (ht : c.tack = none)
    (hphase : c.phase = .body) :
    makeRecord e c ((i, g) :: rest) =
      makeStep e c g.recordKind g.a g.b ((i, g) :: rest) := by
  cases c; cases ht; cases hphase; rfl

theorem makeRecord_of_runOut (ht : c.tack = none) (hphase : c.phase = .runOut) :
    makeRecord e c hand = e.runOutStep c := by
  cases c; cases ht; cases hphase; rfl

end

/-- The feed step of a TACK record: forwards at odd indices (R64). -/
def TackPhase.feed (t : TackPhase) : Int := if t.index % 2 = 1 then t.length else -t.length

/-- The step count's place after a TACK record: a TACK segment counts its records (R66). -/
def Context.stepAfterTack (c : Context) (kind : TackKind) : Nat := if kind = .explicit then c.step + 1 else c.step

/-- A group goes on. -/
theorem makeTack_of_lt (e : CopyEnv) (c : Context) {t : TackPhase} (hand : List (Nat × Segment))
    (h : t.index < t.count) :
    makeTack e c t hand =
      e.record c { c with tack := some { t with index := t.index + 1 }, step := c.stepAfterTack t.kind } .tack t.feed
        hand := by
  have hgoes : ¬ t.count ≤ t.index := by omega
  simp only [makeTack, hgoes, if_false, decide_false, Bool.and_false, Bool.not_false, Bool.and_true, false_and, and_false]
  rfl

/-- The last record of a group ends it, and the seam where the group is an END group; a TACK segment leaves the hand. -/
theorem makeTack_of_le (e : CopyEnv) (c : Context) {t : TackPhase} (hand : List (Nat × Segment))
    (h : t.count ≤ t.index) :
    makeTack e c t hand =
      e.record c
        { c with tack := none, seam := c.seam && decide (t.kind ≠ .ending), step := c.stepAfterTack t.kind } .tack t.feed
        (if t.kind = .explicit ∧ hand.head?.map Prod.fst = some c.segment then hand.tail else hand) := by
  simp only [makeTack, h, if_true, decide_true, Bool.and_true, true_and, decide_not]
  rfl

/-- The first TACK record of a group that begins at a context. -/
def CopyEnv.groupBegun (e : CopyEnv) (c : Context) (kind : TackKind) (count length : Nat) (hand : List (Nat × Segment)) :
    Making :=
  e.record c { c with tack := some ⟨kind, 2, count, tackFeed e.st length⟩, step := c.stepAfterTack kind } .tack
    (tackFeed e.st length) hand

theorem makeRecord_startTack (e : CopyEnv) (c : Context) (kind : TackKind) {count : Nat} (length : Nat)
    (hand : List (Nat × Segment)) (hcount : 2 ≤ count) :
    makeRecord e (c.startTack e kind count length) hand = e.groupBegun c kind count length hand := by
  rw [makeRecord_of_tack rfl, makeTack_of_lt e _ hand (by exact hcount)]
  rfl

/-- The first step of a move. -/
theorem makeStep_of_first (e : CopyEnv) {c : Context} (kind : Kind) (dx dy : Int) (hand : List (Nat × Segment))
    (hfirst : c.step = 0) :
    (makeStep e c kind dx dy hand).dy = rdiv dy c.steps ∧
      (makeStep e c kind dx dy hand).context.intended = c.baseLateral + rdiv dx c.steps ∧
      (makeStep e c kind dx dy hand).context.panelY = c.baseY + rdiv dy c.steps := by
  simp [makeStep, CopyEnv.record, hfirst, rdiv_zero]

/-- What the first record of a segment carries that begins at a context with a step count (R60, R63). -/
structure FirstStep (e : CopyEnv) (c : Context) (i steps : Nat) (g : Segment) (m : Making) : Prop where
  kind : m.kind = g.recordKind
  planned : m.planned = if g.recordKind = .jump then 0 else e.order.groups &&& c.mask
  dy : m.dy = rdiv g.b steps
  dx : m.dx = m.lateral - clampInt c.intended 0 e.st.travel
  intended : m.context.intended = c.intended + rdiv g.a steps
  panelY : m.context.panelY = c.panelY + m.dy
  seam : m.context.seam = (c.seam || decide (g.recordKind = .sew))
  tack : m.context.tack = none
  segment : m.context.segment = i
  step : m.context.step = 1
  steps : m.context.steps = steps

theorem makeRecord_startSegment (e : CopyEnv) {c : Context} (i steps : Nat) (g : Segment) (rest : List (Nat × Segment))
    (ht : c.tack = none) (hphase : c.phase = .body) :
    FirstStep e c i steps g (makeRecord e (c.startSegment i steps) ((i, g) :: rest)) := by
  obtain ⟨hdy, hintended, hpanelY⟩ := makeStep_of_first e (c := c.startSegment i steps) g.recordKind g.a g.b
    ((i, g) :: rest) rfl
  rw [makeRecord_of_body (c := c.startSegment i steps) ht hphase]
  exact ⟨rfl, rfl, hdy, rfl, hintended, hpanelY.trans (congrArg _ hdy.symm), rfl, ht, rfl, rfl, rfl⟩

/-- The lead-in feeds nothing and stays in its phase and at its panel y. -/
theorem leadInStep_stays (e : CopyEnv) {c : Context} (hand : List (Nat × Segment)) (hphase : c.phase = .leadIn) :
    (e.leadInStep c hand).dy = 0 ∧ (e.leadInStep c hand).context.panelY = c.panelY ∧
      (e.leadInStep c hand).context.phase = .leadIn := by
  simp [CopyEnv.leadInStep, makeStep, CopyEnv.record, rdiv_zero, hphase]

/-- Only its final step ends the run-out, and the copy with it. -/
theorem runOutStep_phase (e : CopyEnv) {c : Context} (hphase : c.phase = .runOut) :
    (e.runOutStep c).context.phase = if c.steps ≤ c.step + 1 then .done else .runOut := by
  simp [CopyEnv.runOutStep, makeStep, CopyEnv.record, hphase]

/-! ### Which record is the last (R72) -/

theorem moreToCome_eq_false_iff {e : CopyEnv} {c : Context} :
    e.moreToCome c = false ↔
      c.tack = none ∧ e.order.gap = 0 ∧ c.panelY = e.order.length ∧ c.intended = e.order.start := by
  simp [CopyEnv.moreToCome, and_assoc]

/-- Only where no run-out is sure to follow does the expander read ahead (log 14). -/
theorem moreToCome_of_lastness_need {e : CopyEnv} {m : Making} {i : Nat} (h : e.lastness m = .need i) :
    e.moreToCome m.context = false := by
  unfold CopyEnv.lastness at h
  split at h
  · cases h
  · split at h
    · cases h
    · next hmore => exact Bool.eq_false_iff.mpr fun hcome => hmore (.inr hcome)

theorem lastness_last_cases {e : CopyEnv} {m : Making} (h : e.lastness m = .last) :
    m.context.phase = .done ∨ m.context.phase ≠ .runOut ∧ e.moreToCome m.context = false := by
  unfold CopyEnv.lastness at h
  split at h
  · next hdone => exact .inl hdone
  · split at h
    · cases h
    · next hmore =>
      exact .inr ⟨fun hout => hmore (.inl hout), Bool.eq_false_iff.mpr fun hcome => hmore (.inr hcome)⟩

/-! ### What a plan says of its record -/

/-- A record that is planned is that of the ready context; it is the last exactly where the copy is found to end with it. -/
theorem plan_make_cases {e : CopyEnv} {c : Context} {hand : List (Nat × Segment)} {m : Making}
    {first last closing : Bool} (h : e.plan c hand = .make m first last closing) :
    (∃ c' hand', advanceFrom e c hand = .ready c' hand' ∧ m = makeRecord e c' hand') ∧
      first = (decide (c.phase = .leadIn) && decide (c.step = 0)) ∧
      e.lastness m = if last then .last else .notLast := by
  unfold CopyEnv.plan at h
  split at h
  · cases h
  · cases h
  · cases h
  · next c' hand' hready =>
    dsimp only at h
    split at h
    · cases h
    · next hlast => cases h; exact ⟨⟨c', hand', hready, rfl⟩, rfl, hlast⟩
    · next hlast => cases h; exact ⟨⟨c', hand', hready, rfl⟩, rfl, hlast⟩

/-- Settles O17: every record is one that its environment makes of two contexts, laterals clamped. -/
theorem recordsAreClamped : Obligations.RecordsAreClamped := by
  intro e c hand m first last closing h
  obtain ⟨⟨c', hand', -, rfl⟩, -, -⟩ := plan_make_cases h
  obtain ⟨d, kind, dy, left, hrecord⟩ := makeRecord_eq_record e c' hand'
  rw [hrecord]
  have htravel : (0 : Int) ≤ e.st.travel := by omega
  obtain ⟨hlow, hhigh⟩ := clampInt_mem htravel d.intended
  exact ⟨hlow, hhigh, rfl, decide_eq_true_iff.trans (clampInt_ne_iff d.intended 0 e.st.travel)⟩

/-! ### An expansion event (R56, R73, R80, R81, R142) -/

section
variable (m : Making) (tag : Word16) (copy : Nat) (first last : Bool) (s : State)

theorem appendRecord_sw :
    (appendRecord m tag copy first last s).sw = s.sw.join (m.toRecord tag copy first last) := rfl

theorem appendRecord_wt :
    (appendRecord m tag copy first last s).wt = if last then s.reserve tag copy s.sw.counter else s.wt := rfl

/-- A reservation changes the list of reservations alone. -/
theorem reserve_keeps (serial : Word32) :
    (s.reserve tag copy serial).cuts = s.wt.cuts ∧ (s.reserve tag copy serial).web = s.wt.web := by
  unfold State.reserve
  split <;> exact ⟨rfl, rfl⟩

theorem reserve_of_queued {o : Order} (ho : findOrder s.queue tag = some o) (serial : Word32) :
    (s.reserve tag copy serial).reservations = s.wt.reservations ++
      [⟨tag, copy, s.sx.context.panelStart + BitVec.ofNat 32 (o.length + o.gap / 2), serial⟩] := by
  rw [State.reserve, ho]

end

/-- Settles O26: the event appends the planned record, and nothing that settles after it reaches the window, the queue, the
history or the Web Tracker. -/
theorem expansionEventAppends : Obligations.ExpansionEventAppends := by
  intro s m first last closing tag copy hr hx hplan htag hcopy hring hwait hcuts
  refine ⟨_, exec_expansionEvent hr hx hplan htag hcopy (readyState_of_room hring hwait hcuts), ?_⟩
  beta_reduce
  rw [settle_sw, settle_queue, settle_gh, settle_wt, appendRecord_sw, appendRecord_wt, appendRecord_queue, appendRecord_gh]
  refine ⟨⟨{ m.toRecord tag copy first last with serial := s.sw.counter }, rfl, rfl, rfl, rfl, rfl, rfl, rfl, rfl, rfl, rfl,
    rfl, rfl, rfl, rfl, rfl⟩, rfl, rfl, ?cuts, ?web, fun hlast => if_neg (by simp [hlast]), fun hlast o ho => ?reserved⟩
  case cuts => split; exacts [(reserve_keeps tag copy s _).1, rfl]
  case web => split; exacts [(reserve_keeps tag copy s _).2, rfl]
  case reserved => rw [if_pos hlast]; exact reserve_of_queued tag copy s ho _

end Sys2Proof.Machine
end

section
/-! SUPPORT. The plan from every context: what a segment that is reached leads to, where the body ends, and the record that the
expander makes from there. -/

namespace Sys2Proof.Machine

/-! ### From a ready context to the plan (R72, R73) -/

section
variable {e : CopyEnv} {c c' : Context} {hand hand' : List (Nat × Segment)}

theorem decide_first (c : Context) :
    (decide (c.phase = .leadIn) && decide (c.step = 0)) = decide (c.phase = .leadIn ∧ c.step = 0) := by
  rw [Bool.decide_and]

/-- A ready context before RUN_OUT whose record is surely followed by another makes a record without marks but FIRST. -/
theorem plan_of_ready_more (h : advanceFrom e c hand = .ready c' hand') (hphase : c'.phase ≠ .runOut)
    (hdone : (makeRecord e c' hand').context.phase ≠ .done)
    (hmore : e.moreToCome (makeRecord e c' hand').context = true) :
    e.plan c hand =
      .make (makeRecord e c' hand') (decide (c.phase = .leadIn ∧ c.step = 0)) false false := by
  rw [plan_of_ready h hdone (.inr hmore), decide_first, decide_eq_false hphase, Bool.false_and]

/-- The record of a ready context is made, or a segment is to be read ahead, which only a gap of 0 asks for (log 14). -/
theorem plan_of_ready_makes (h : advanceFrom e c hand = .ready c' hand') :
    (∃ last closing,
        e.plan c hand = .make (makeRecord e c' hand') (decide (c.phase = .leadIn ∧ c.step = 0)) last closing) ∨
      (e.order.gap = 0 ∧ ∃ i, e.plan c hand = .need i) := by
  unfold CopyEnv.plan
  rw [h]
  dsimp only
  rw [decide_first]
  split
  · next i hneed =>
    obtain ⟨-, hgap, -⟩ := moreToCome_eq_false_iff.mp (moreToCome_of_lastness_need hneed)
    exact .inr ⟨hgap, i, rfl⟩
  · exact .inl ⟨_, _, rfl⟩
  · exact .inl ⟨_, _, rfl⟩

/-- What is shown of the record of a ready context holds of the next record. -/
theorem makes_of_ready {P : Making → Prop} (h : advanceFrom e c hand = .ready c' hand') (hP : P (makeRecord e c' hand')) :
    (∃ m last closing,
        e.plan c hand = .make m (decide (c.phase = .leadIn ∧ c.step = 0)) last closing ∧ P m) ∨
      (e.order.gap = 0 ∧ ∃ i, e.plan c hand = .need i) :=
  (plan_of_ready_makes h).imp_left fun ⟨last, closing, hplan⟩ => ⟨_, last, closing, hplan, hP⟩

/-- A context in the body or in END_TACK is in no other phase. -/
theorem Phase.ne_of_body_or_endTack {p : Phase} (h : p = .body ∨ p = .endTack) :
    p ≠ .leadIn ∧ p ≠ .runOut ∧ p ≠ .done := by
  rcases h with rfl | rfl <;> decide

/-- A group that begins is planned with its first record. -/
theorem plan_of_startTack {kind : TackKind} {count length : Nat}
    (h : advanceFrom e c hand = .ready (c'.startTack e kind count length) hand') (hcount : 2 ≤ count)
    (hphase : c'.phase = .body ∨ c'.phase = .endTack) :
    e.plan c hand = .make (e.groupBegun c' kind count length hand')
      (decide (c.phase = .leadIn ∧ c.step = 0)) false false := by
  have hrecord := makeRecord_startTack e c' kind length hand' hcount
  obtain ⟨-, hout, hdone⟩ := Phase.ne_of_body_or_endTack hphase
  rw [← hrecord]
  refine plan_of_ready_more h hout ?_ ?_
  · rw [hrecord]; exact hdone
  · rw [hrecord]; rfl

/-- A run-out's step is planned: LAST where it is the final one, closing where it is the first (R71, R73). -/
theorem plan_of_runOut (h : advanceFrom e c hand = .ready c' []) (ht : c'.tack = none) (hphase : c'.phase = .runOut) :
    e.plan c hand =
      .make (e.runOutStep c') (decide (c.phase = .leadIn ∧ c.step = 0)) (decide (c'.steps ≤ c'.step + 1))
        (decide (c'.step = 0)) := by
  have hrecord := makeRecord_of_runOut (e := e) (hand := []) ht hphase
  by_cases hend : c'.steps ≤ c'.step + 1
  · have hlast : e.lastness (makeRecord e c' []) = .last := by
      rw [hrecord, CopyEnv.lastness, if_pos]
      exact if_pos ⟨hphase, hend⟩
    unfold CopyEnv.plan
    rw [h]
    dsimp only
    rw [hlast, hrecord, decide_first, hphase, decide_eq_true hend]
    simp
  · have hstays : (makeRecord e c' []).context.phase = .runOut := by
      rw [hrecord]
      exact (if_neg fun hboth => hend hboth.2).trans hphase
    rw [plan_of_ready h (by rw [hstays]; nofun) (.inl hstays), hrecord, decide_first, hphase, decide_eq_false hend]
    simp

end

/-! ### A segment that is reached (R59, R63 to R66, R69) -/

section
variable {e : CopyEnv} {c : Context} {g : Segment} {i : Nat}

theorem cuts_iff :
    e.cuts c g = true ↔
      e.order.mode = .truncate ∧ (e.order.length : Int) < c.baseY + rdiv (g.b * (c.step + 1 : Nat)) c.steps := by
  rw [CopyEnv.cuts, Bool.and_eq_true, decide_eq_true_iff, decide_eq_true_iff]
  rfl

/-- The first step of a segment is a cut step where it ends beyond the panel. -/
theorem cuts_startSegment_iff {steps : Nat} :
    e.cuts (c.startSegment i steps) g = true ↔
      e.order.mode = .truncate ∧ (e.order.length : Int) < c.panelY + rdiv g.b steps :=
  cuts_iff.trans (by simp [Context.startSegment])

theorem cuts_run_iff (hop : g.op = some .run) :
    e.cuts (c.startSegment i (runSteps e.st c.stitch g)) g = true ↔ CutAtStart e c g := by
  simp [cuts_startSegment_iff, CutAtStart, hop]

theorem cuts_jump_iff (hop : g.op = some .jump) (hmoves : g.a ≠ 0 ∨ g.b ≠ 0)
    (hopen : c.seam = false ∨ c.tackCount = 0) :
    e.cuts (({ c with seam := false } : Context).startSegment i (jumpSteps e.st g.a g.b)) g = true ↔
      CutAtStart e c g := by
  simp [cuts_startSegment_iff, CutAtStart, hop, hmoves, hopen]

theorem jumpSteps_ne_zero {st : Settings} {dx dy : Int} (h : dx ≠ 0 ∨ dy ≠ 0) : jumpSteps st dx dy ≠ 0 := by
  rw [jumpSteps, if_neg (by omega)]
  omega

theorem startOfSegment_run_tacked (hop : g.op = some .run) (hcut : ¬ CutAtStart e c g) (hseam : c.seam = false)
    (hcount : 0 < c.tackCount) :
    startOfSegment e c i g =
      .record ((c.startSegment i (runSteps e.st c.stitch g)).startTack e .start c.tackCount c.tackLength) := by
  rw [← cuts_run_iff (i := i) hop] at hcut
  simp only [startOfSegment, hop]
  rw [if_neg hcut, if_pos ⟨hseam, hcount⟩]

theorem startOfSegment_run (hop : g.op = some .run) (hcut : ¬ CutAtStart e c g)
    (hopen : c.seam = true ∨ c.tackCount = 0) :
    startOfSegment e c i g = .record (c.startSegment i (runSteps e.st c.stitch g)) := by
  rw [← cuts_run_iff (i := i) hop] at hcut
  simp only [startOfSegment, hop]
  rw [if_neg hcut, if_neg]
  rcases hopen with h | h <;> simp [h]

theorem startOfSegment_jump_tacked (hop : g.op = some .jump) (hseam : c.seam = true) (hcount : 0 < c.tackCount) :
    startOfSegment e c i g =
      .record ((c.startSegment i (jumpSteps e.st g.a g.b)).startTack e .ending c.tackCount c.tackLength) := by
  simp only [startOfSegment, hop]
  rw [if_pos ⟨hseam, hcount⟩]

/-- A JUMP reached without an END group to make comes to its first step, or to a cut step. -/
theorem startOfSegment_jump (hop : g.op = some .jump) (hmoves : g.a ≠ 0 ∨ g.b ≠ 0)
    (hopen : c.seam = false ∨ c.tackCount = 0) :
    startOfSegment e c i g =
      if e.cuts (({ c with seam := false } : Context).startSegment i (jumpSteps e.st g.a g.b)) g then .cut
      else .record (({ c with seam := false } : Context).startSegment i (jumpSteps e.st g.a g.b)) := by
  simp only [startOfSegment, hop]
  rw [if_neg (by rcases hopen with h | h <;> simp [h]), if_neg (jumpSteps_ne_zero hmoves)]

theorem startOfSegment_tack (hop : g.op = some .tack) :
    startOfSegment e c i g = .record ((c.startSegment i g.a.toNat).startTack e .explicit g.a.toNat g.b.toNat) := by
  simp only [startOfSegment, hop]

theorem startOfSegment_endOfBody (hop : g.op = some .endOfBody) (hfits : ¬ RepeatFits e c) :
    startOfSegment e c i g = .onward { c with phase := .endTack } := by
  simp only [startOfSegment, hop, startRepeat_not hfits]

theorem startOfSegment_cut (hcut : CutAtStart e c g) : startOfSegment e c i g = .cut := by
  have hcut' := hcut
  obtain ⟨-, ⟨hop, -⟩ | ⟨hop, hmoves, hopen, -⟩⟩ := hcut
  · simp only [startOfSegment, hop]
    rw [if_pos ((cuts_run_iff hop).mpr hcut')]
  · rw [startOfSegment_jump hop hmoves hopen, if_pos ((cuts_jump_iff hop hmoves hopen).mpr hcut')]

end

/-! ### One move, by the phase (R57, R67 to R71) -/

section
variable {e : CopyEnv} {last c : Context} {hand : List (Nat × Segment)} (n : Nat)

theorem advance_tack (ht : c.tack.isSome = true) : advance e last (n + 1) c hand = .ready c hand := by
  rw [advance_succ, if_pos ht]

theorem advance_leadIn (ht : c.tack = none) (hphase : c.phase = .leadIn) :
    advance e last (n + 1) c hand =
      if c.step < c.steps then .ready c hand else advance e last n (c.startRepeat e) hand := by
  simp [advance_succ, ht, hphase]

theorem advance_endTack (ht : c.tack = none) (hphase : c.phase = .endTack) :
    advance e last (n + 1) c hand =
      if c.seam = true ∧ 0 < c.tackCount then .ready (c.startTack e .ending c.tackCount c.tackLength) []
      else advance e last n (c.startRunOut e) [] := by
  simp [advance_succ, ht, hphase]

theorem advance_runOut (ht : c.tack = none) (hphase : c.phase = .runOut) :
    advance e last (n + 1) c hand =
      if c.step < c.steps then .ready c [] else advance e last n { c with phase := .done } [] := by
  simp [advance_succ, ht, hphase]

theorem advance_done (ht : c.tack = none) (hphase : c.phase = .done) : advance e last (n + 1) c hand = .ended c := by
  simp [advance_succ, ht, hphase]

theorem advance_body_nil (ht : c.tack = none) (hphase : c.phase = .body) :
    advance e last (n + 1) c [] = .need c.position := by
  simp [advance_succ, ht, hphase]

variable {g : Segment} {rest : List (Nat × Segment)}

theorem position_of_lt (hstep : c.step < c.steps) : c.position = c.segment := if_pos (.inr hstep)

/-- A step of the segment in hand is ready, unless it is a cut step. -/
theorem advance_body_step (ht : c.tack = none) (hphase : c.phase = .body) (hstep : c.step < c.steps) :
    advance e last (n + 1) c ((c.segment, g) :: rest) =
      if e.cuts c g then advance e last n (c.cutBody last) [] else .ready c ((c.segment, g) :: rest) := by
  simp [advance_succ, ht, hphase, position_of_lt, hstep]

theorem advance_body_record {c' : Context} (hbefore : BeforeSegment c)
    (hstart : startOfSegment e c c.position g = .record c') :
    advance e last (n + 1) c ((c.position, g) :: rest) = .ready c' ((c.position, g) :: rest) := by
  obtain ⟨hphase, ht, hsteps⟩ := hbefore
  simp [advance_succ, ht, hphase, Nat.not_lt.mpr hsteps, hstart]

theorem advance_body_onward {c' : Context} (hbefore : BeforeSegment c)
    (hstart : startOfSegment e c c.position g = .onward c') :
    advance e last (n + 1) c ((c.position, g) :: rest) = advance e last n c' rest := by
  obtain ⟨hphase, ht, hsteps⟩ := hbefore
  simp [advance_succ, ht, hphase, Nat.not_lt.mpr hsteps, hstart]

theorem advance_body_cut (hbefore : BeforeSegment c) (hstart : startOfSegment e c c.position g = .cut) :
    advance e last (n + 1) c ((c.position, g) :: rest) =
      advance e last n (({ c with seam := c.seam && decide (g.op ≠ some .jump) } : Context).cutBody last) [] := by
  obtain ⟨hphase, ht, hsteps⟩ := hbefore
  simp [advance_succ, ht, hphase, Nat.not_lt.mpr hsteps, hstart]

end

/-! ### What is ready (R57) -/

section
variable {e : CopyEnv} {c d d' : Context} {g : Segment} {hand rest : List (Nat × Segment)}

theorem advanceFrom_eq_advance (e : CopyEnv) (c : Context) (hand : List (Nat × Segment)) :
    ∃ n, advanceFrom e c hand = advance e c (n + 4) c hand := ⟨2 * hand.length + 8, rfl⟩

/-- Where a way without a record leads, moves enough are left to end the copy. -/
theorem advanceFrom_of_passes (hpass : Passes e c hand d rest) :
    ∃ n, advanceFrom e c hand = advance e c (n + 4) d rest := by
  obtain ⟨n, hn, hmoves⟩ := advanceFrom_passes hpass
  exact ⟨n - 4, by rw [hmoves]; congr 1; omega⟩

theorem advanceFrom_of_tack {t : TackPhase} (ht : c.tack = some t) : advanceFrom e c hand = .ready c hand := by
  obtain ⟨n, hn⟩ := advanceFrom_eq_advance e c hand
  rw [hn, advance_tack _ (by rw [ht]; rfl)]

theorem advanceFrom_of_leadIn (ht : c.tack = none) (hphase : c.phase = .leadIn) (hstep : c.step < c.steps) :
    advanceFrom e c hand = .ready c hand := by
  obtain ⟨n, hn⟩ := advanceFrom_eq_advance e c hand
  rw [hn, advance_leadIn _ ht hphase, if_pos hstep]

theorem advanceFrom_of_runOut (ht : c.tack = none) (hphase : c.phase = .runOut) (hstep : c.step < c.steps) :
    advanceFrom e c hand = .ready c [] := by
  obtain ⟨n, hn⟩ := advanceFrom_eq_advance e c hand
  rw [hn, advance_runOut _ ht hphase, if_pos hstep]

theorem advanceFrom_of_step (ht : c.tack = none) (hphase : c.phase = .body) (hstep : c.step < c.steps)
    (hcut : ¬ e.cuts c g = true) :
    advanceFrom e c ((c.segment, g) :: rest) = .ready c ((c.segment, g) :: rest) := by
  obtain ⟨n, hn⟩ := advanceFrom_eq_advance e c ((c.segment, g) :: rest)
  rw [hn, advance_body_step _ ht hphase hstep, if_neg hcut]

/-- A segment that is reached, past those that make no record, is begun. -/
theorem advanceFrom_of_reached (hpass : Passes e c hand d ((d.position, g) :: rest)) (hbefore : BeforeSegment d)
    (hstart : startOfSegment e d d.position g = .record d') :
    advanceFrom e c hand = .ready d' ((d.position, g) :: rest) := by
  obtain ⟨n, hn⟩ := advanceFrom_of_passes hpass
  rw [hn, advance_body_record _ hbefore hstart]

/-- With no segment in hand where the way leads, the next one is needed. -/
theorem plan_of_no_segment (hpass : Passes e c hand d []) (hphase : d.phase = .body) (ht : d.tack = none) :
    e.plan c hand = .need d.position := by
  obtain ⟨n, hn⟩ := advanceFrom_of_passes hpass
  rw [CopyEnv.plan, hn, advance_body_nil _ ht hphase]

end

/-! ### The body's end (R68 to R71) -/

/-- A context in END_TACK before its group, with what another one gives of the position, the mask and the tacks. An END group
is due in both or in neither. -/
structure EndsAs (d c : Context) : Prop where
  phase : c.phase = .endTack
  tack : c.tack = none
  intended : c.intended = d.intended
  panelY : c.panelY = d.panelY
  panelStart : c.panelStart = d.panelStart
  mask : c.mask = d.mask
  tackCount : c.tackCount = d.tackCount
  tackLength : c.tackLength = d.tackLength
  tacked : (c.seam = true ∧ 0 < c.tackCount) ↔ (d.seam = true ∧ 0 < d.tackCount)

theorem endsAs_endTack {d : Context} (ht : d.tack = none) : EndsAs d { d with phase := .endTack } :=
  ⟨rfl, ht, rfl, rfl, rfl, rfl, rfl, rfl, Iff.rfl⟩

/-- A cut step ends the body at its context; a JUMP that is cut has ended a seam without tacks (R65, R69). -/
theorem endsAs_cutBody {e : CopyEnv} {d last : Context} {g : Segment} (ht : d.tack = none) (hcut : CutAtStart e d g) :
    EndsAs d (({ d with seam := d.seam && decide (g.op ≠ some .jump) } : Context).cutBody last) := by
  refine ⟨rfl, ht, rfl, rfl, rfl, rfl, rfl, rfl, ?_⟩
  obtain ⟨-, ⟨hop, -⟩ | ⟨hop, -, hopen, -⟩⟩ := hcut
  · simp [Context.cutBody, hop]
  · rcases hopen with h | h <;> simp [Context.cutBody, hop, h]

/-- Where the body ends, the expander comes to END_TACK. -/
theorem advanceFrom_of_bodyEnds {e : CopyEnv} {c d : Context} {hand : List (Nat × Segment)} (h : BodyEnds e c hand d) :
    ∃ n d' rest, advanceFrom e c hand = advance e c (n + 3) d' rest ∧ EndsAs d d' := by
  obtain ⟨n, hn⟩ := advanceFrom_eq_advance e c hand
  cases h with
  | endTack hphase ht => exact ⟨n + 1, c, hand, hn, hphase, ht, rfl, rfl, rfl, rfl, rfl, rfl, Iff.rfl⟩
  | noRepeat hlead hfits =>
    obtain ⟨hphase, ht, hsteps⟩ := hlead
    refine ⟨n, { c with phase := .endTack }, hand, ?_, endsAs_endTack ht⟩
    rw [hn, advance_leadIn _ ht hphase, if_neg (Nat.not_lt.mpr hsteps), startRepeat_not hfits]
  | @atEnd _ _ rest hpass hbefore hop hfits =>
    obtain ⟨k, hk⟩ := advanceFrom_of_passes hpass
    have ⟨_, ht, _⟩ := hbefore
    refine ⟨k, { d with phase := .endTack }, rest, ?_, endsAs_endTack ht⟩
    rw [hk, advance_body_onward _ hbefore (startOfSegment_endOfBody hop hfits)]
  | cutAtStart hpass hbefore hcut =>
    obtain ⟨k, hk⟩ := advanceFrom_of_passes hpass
    have ⟨_, ht, _⟩ := hbefore
    refine ⟨k, _, [], ?_, endsAs_cutBody (last := c) ht hcut⟩
    rw [hk, advance_body_cut _ hbefore (startOfSegment_cut hcut)]
  | cutWithin hhand hphase ht hstep hmode hcut =>
    refine ⟨n, c.cutBody c, [], ?_, endsAs_endTack ht⟩
    rw [hn, hhand, advance_body_step _ ht hphase hstep, if_pos (cuts_iff.mpr ⟨hmode, hcut⟩)]

section
variable {e : CopyEnv} {c d : Context} {hand : List (Nat × Segment)}

/-- The body ends in a seam: its END group begins (R70). -/
theorem plan_of_bodyEnds_tacked (h : BodyEnds e c hand d) (hseam : d.seam = true) (hcount : 2 ≤ d.tackCount) :
    ∃ d', EndsAs d d' ∧ e.plan c hand = .make (e.groupBegun d' .ending d'.tackCount d'.tackLength [])
      (decide (c.phase = .leadIn ∧ c.step = 0)) false false := by
  obtain ⟨n, d', rest, hmoves, hends⟩ := advanceFrom_of_bodyEnds h
  refine ⟨d', hends, plan_of_startTack ?_ (by rw [hends.tackCount]; exact hcount) (.inr hends.phase)⟩
  rw [hmoves, advance_endTack _ hends.tack hends.phase, if_pos (hends.tacked.mpr ⟨hseam, by omega⟩)]

/-- The body ends with no END group due: the expander comes to RUN_OUT (R70). -/
theorem advanceFrom_of_bodyEnds_untacked (h : BodyEnds e c hand d) (hopen : d.seam = false ∨ d.tackCount = 0) :
    ∃ n d', EndsAs d d' ∧ advanceFrom e c hand = advance e c (n + 2) (d'.startRunOut e) [] := by
  obtain ⟨n, d', rest, hmoves, hends⟩ := advanceFrom_of_bodyEnds h
  have huntacked : ¬ (d'.seam = true ∧ 0 < d'.tackCount) := by
    rw [hends.tacked]
    rcases hopen with h | h <;> simp [h]
  exact ⟨n, d', hends, by rw [hmoves, advance_endTack _ hends.tack hends.phase, if_neg huntacked]⟩

/-- The run-out that begins where the body ended is that of the lateral and the panel y of that point. -/
theorem EndsAs.startRunOut_steps {d' : Context} (h : EndsAs d d') :
    (d'.startRunOut e).steps =
      jumpSteps e.st (e.order.start - d.intended) (e.order.length - d.panelY + e.order.gap) := by
  rw [← h.intended, ← h.panelY]
  rfl

theorem EndsAs.startRunOut_cutMark {d' : Context} (h : EndsAs d d') :
    (d'.startRunOut e).cutMark = some (d.panelStart + BitVec.ofNat 32 (e.order.length + e.order.gap / 2)) := by
  rw [← h.panelStart]
  rfl

/-- The first step of that run-out. -/
theorem EndsAs.runOutStep {d' : Context} (h : EndsAs d d') {n : Nat}
    (hn : n = jumpSteps e.st (e.order.start - d.intended) (e.order.length - d.panelY + e.order.gap)) :
    (e.runOutStep (d'.startRunOut e)).dy = rdiv (e.order.length - d.panelY + e.order.gap) n ∧
      (e.runOutStep (d'.startRunOut e)).context.intended = d.intended + rdiv (e.order.start - d.intended) n ∧
      (e.runOutStep (d'.startRunOut e)).context.panelY =
        d.panelY + rdiv (e.order.length - d.panelY + e.order.gap) n := by
  rw [hn, ← h.startRunOut_steps, ← h.intended, ← h.panelY]
  exact makeStep_of_first e (c := d'.startRunOut e) .jump _ _ [] rfl

/-- A run-out with a length makes its first record (R71). -/
theorem plan_of_bodyEnds_runOut (h : BodyEnds e c hand d) (hopen : d.seam = false ∨ d.tackCount = 0)
    (hlength : (e.order.start : Int) - d.intended ≠ 0 ∨ (e.order.length : Int) - d.panelY + e.order.gap ≠ 0) :
    ∃ d', EndsAs d d' ∧
      e.plan c hand =
        .make (e.runOutStep (d'.startRunOut e)) (decide (c.phase = .leadIn ∧ c.step = 0))
          (decide ((d'.startRunOut e).steps ≤ 1)) true := by
  obtain ⟨n, d', hends, hmoves⟩ := advanceFrom_of_bodyEnds_untacked h hopen
  refine ⟨d', hends, plan_of_runOut (c' := d'.startRunOut e) ?_ hends.tack rfl⟩
  have hsteps : 0 < (d'.startRunOut e).steps := by
    rw [hends.startRunOut_steps]
    exact Nat.pos_of_ne_zero (jumpSteps_ne_zero hlength)
  rw [hmoves, advance_runOut (c := d'.startRunOut e) _ hends.tack rfl]
  exact if_pos hsteps

/-- A run-out of no length makes no record, and the copy ends (R71). -/
theorem plan_of_bodyEnds_ended (h : BodyEnds e c hand d) (hopen : d.seam = false ∨ d.tackCount = 0)
    (hdx : (e.order.start : Int) - d.intended = 0) (hdy : (e.order.length : Int) - d.panelY + e.order.gap = 0) :
    ∃ d', EndsAs d d' ∧ e.plan c hand = .ended { d'.startRunOut e with phase := .done } := by
  obtain ⟨n, d', hends, hmoves⟩ := advanceFrom_of_bodyEnds_untacked h hopen
  refine ⟨d', hends, ?_⟩
  have hsteps : (d'.startRunOut e).steps = 0 := by
    rw [hends.startRunOut_steps]
    exact if_pos ⟨hdx, hdy⟩
  have hended : advance e c (n + 1) { d'.startRunOut e with phase := .done } [] = .ended _ :=
    advance_done n hends.tack rfl
  rw [CopyEnv.plan, hmoves, advance_runOut (c := d'.startRunOut e) _ hends.tack rfl, if_neg (by omega), hended]

end

end Sys2Proof.Machine
end

section
/-! SUPPORT. The next record from every context: what its plan carries, and the obligation assembled from the plans. -/

namespace Sys2Proof.Machine

/-! ### The phases with a record in hand (R60, R64, R67) -/

section
variable {e : CopyEnv} {c : Context} {hand : List (Nat × Segment)}

theorem plan_of_leadIn (ht : c.tack = none) (hphase : c.phase = .leadIn) (hstep : c.step < c.steps)
    (hy : c.panelY ≠ e.order.length) :
    e.plan c hand = .make (e.leadInStep c hand) (decide (c.phase = .leadIn ∧ c.step = 0)) false false := by
  have hrecord := makeRecord_of_leadIn (e := e) (hand := hand) ht hphase
  obtain ⟨-, hpanelY, hstays⟩ := leadInStep_stays e hand hphase
  rw [← hrecord] at hpanelY hstays ⊢
  refine plan_of_ready_more (advanceFrom_of_leadIn ht hphase hstep) (by rw [hphase]; nofun) (by rw [hstays]; nofun) ?_
  rw [← Bool.not_eq_false, moreToCome_eq_false_iff]
  rintro ⟨-, -, hlength, -⟩
  exact hy (hpanelY.symm.trans hlength)

/-- A group in hand goes on with its next record. -/
theorem plan_of_tack {t : TackPhase} (hphase : c.phase = .body ∨ c.phase = .endTack) (ht : c.tack = some t)
    (hlt : t.index < t.count) :
    e.plan c hand =
      .make (e.record c { c with tack := some { t with index := t.index + 1 }, step := c.stepAfterTack t.kind } .tack
        t.feed hand) false false false := by
  have hrecord : makeRecord e c hand = _ := (makeRecord_of_tack ht).trans (makeTack_of_lt e c hand hlt)
  obtain ⟨hin, hout, hdone⟩ := Phase.ne_of_body_or_endTack hphase
  have hfirst : decide (c.phase = .leadIn ∧ c.step = 0) = false := decide_eq_false fun h => hin h.1
  rw [plan_of_ready_more (advanceFrom_of_tack ht) hout (by rw [hrecord]; exact hdone) (by rw [hrecord]; rfl), hrecord,
    hfirst]

end

/-! ### The web position of a planned record (R56) -/

theorem startRepeat_web (c : Context) (e : CopyEnv) : (c.startRepeat e).web = c.web := by
  unfold Context.startRepeat
  split <;> rfl

/-- To begin a segment feeds nothing. -/
theorem startOfSegment_web {e : CopyEnv} {c c' : Context} {i : Nat} {g : Segment}
    (h : startOfSegment e c i g = .record c' ∨ startOfSegment e c i g = .onward c') : c'.web = c.web := by
  unfold startOfSegment at h
  split at h
  case h_1 | h_2 | h_3 | h_4 => grind [Context.startSegment, Context.startTack]
  case h_5 => obtain h | h := h <;> cases h; exact startRepeat_web c e
  case h_6 => obtain h | h := h <;> cases h

/-- Nor do the moves to the next record. -/
theorem advance_ready_web {e : CopyEnv} {last c c' : Context} {n : Nat} {hand hand' : List (Nat × Segment)}
    (h : advance e last n c hand = .ready c' hand') : c'.web = c.web := by
  induction n generalizing c hand with
  | zero => cases h
  | succ n ih =>
    rw [advance_succ] at h
    split at h
    · cases h; rfl
    · split at h
      · cases h
      · split at h
        · cases h; rfl
        · exact (ih h).trans (startRepeat_web c e)
      · split at h
        · cases h; rfl
        · exact (ih h).trans rfl
      · split at h
        · cases h; rfl
        · exact (ih h).trans rfl
      · split at h
        · cases h
        · split at h
          · cases h
          · split at h
            · split at h
              · exact (ih h).trans rfl
              · cases h; rfl
            · split at h
              · next hstart => cases h; exact startOfSegment_web (.inl hstart)
              · next hstart => exact (ih h).trans (startOfSegment_web (.inr hstart))
              · exact (ih h).trans rfl
              · cases h

/-- The marks of a planned record, and the web position it reaches (R56, R72). -/
theorem plan_make_marks {e : CopyEnv} {c : Context} {hand : List (Nat × Segment)} {m : Making} {first last closing : Bool}
    (h : e.plan c hand = .make m first last closing) :
    (first = true ↔ c.phase = .leadIn ∧ c.step = 0) ∧ m.context.web = c.web + BitVec.ofInt 32 m.dy ∧
      (m.context.phase = .done → last = true) ∧
      (last = true → m.context.phase = .done ∨ (m.context.phase ≠ .runOut ∧ m.context.tack = none ∧ e.order.gap = 0 ∧
        m.context.panelY = e.order.length ∧ m.context.intended = e.order.start)) := by
  obtain ⟨⟨c', hand', hready, hm⟩, hfirst, hlast⟩ := plan_make_cases h
  refine ⟨by rw [hfirst, decide_first, decide_eq_true_iff], ?web, fun hdone => ?done, fun hend => ?ends⟩
  case web =>
    obtain ⟨d, kind, dy, left, hrecord⟩ := makeRecord_eq_record e c' hand'
    rw [hm, hrecord, ← advance_ready_web hready]
    rfl
  case done =>
    rw [CopyEnv.lastness, if_pos hdone] at hlast
    cases last with
    | true => rfl
    | false => cases hlast
  case ends =>
    rw [hend] at hlast
    exact (lastness_last_cases hlast).imp_right fun ⟨hout, hmore⟩ => ⟨hout, moreToCome_eq_false_iff.mp hmore⟩

/-! ### The obligation -/

/-- Settles O27: each clause is the plan from one kind of context, read off field by field. -/
theorem expanderMakesRecords : Obligations.ExpanderMakesRecords := by
  intro e c hand teff clamped first makes
  refine ⟨fun hphase ht hstep hy => ?leadIn, fun t hphase ht => ⟨fun hlt => ?groupGoesOn, fun hle => ?groupEnds⟩,
    fun d hpass hphase ht => plan_of_no_segment hpass hphase ht, fun d g rest hpass hbefore hcut => ?reached,
    fun g rest hhand hphase ht hstep hop hwithin => ?step, fun d hends => ⟨fun hseam hcount => ?bodyTacked, fun hopen =>
      ⟨fun hlength => ?runOutBegins, fun hdx hdy => ?copyEnds⟩⟩, fun hphase ht hstep => ?runOut,
    fun m f last closing h => plan_make_marks h⟩
  case leadIn =>
    obtain ⟨hdy, hpanelY, hstays⟩ := leadInStep_stays e hand hphase
    exact ⟨_, plan_of_leadIn ht hphase hstep hy, rfl, rfl, hdy, rfl, rfl, rfl, hpanelY, rfl, hstays⟩
  case groupGoesOn => exact ⟨_, plan_of_tack hphase ht hlt, rfl, sub_self _, rfl, rfl, rfl, rfl, rfl⟩
  case groupEnds =>
    refine makes_of_ready (advanceFrom_of_tack ht) ?_
    rw [makeRecord_of_tack ht, makeTack_of_le e c hand hle]
    refine ⟨rfl, sub_self _, rfl, rfl, rfl, fun hkind => if_neg fun h => hkind h.1, fun g rest hkind hhand => ?_, rfl⟩
    rw [hhand]
    exact if_pos ⟨hkind, rfl⟩
  case reached =>
    have ⟨hphase, ht, _⟩ := hbefore
    refine ⟨fun hop => ⟨fun hseam hcount => ?runTacked, fun hopen => ?run⟩, fun hop => ⟨fun hseam hcount => ?jumpTacked,
      fun hopen hmoves => ?jump⟩, fun hop hcount => ?tack⟩
    case runTacked =>
      exact ⟨_, plan_of_startTack (advanceFrom_of_reached hpass hbefore
        (startOfSegment_run_tacked hop hcut hseam (by omega))) hcount (.inl hphase), rfl, sub_self _, rfl, rfl, rfl, rfl,
        rfl, rfl, rfl⟩
    case run =>
      refine makes_of_ready (advanceFrom_of_reached hpass hbefore (startOfSegment_run hop hcut hopen)) ?_
      have h := makeRecord_startSegment e d.position (runSteps e.st d.stitch g) g rest ht hphase
      have hkind : g.recordKind = .sew := if_pos hop
      exact ⟨h.kind.trans hkind, by rw [h.planned, hkind]; rfl, h.dy, h.dx, h.intended, h.panelY,
        by rw [h.seam, hkind]; exact Bool.or_true _, h.tack, h.segment, h.step, h.steps⟩
    case jumpTacked =>
      exact ⟨_, plan_of_startTack (advanceFrom_of_reached hpass hbefore
        (startOfSegment_jump_tacked hop hseam (by omega))) hcount (.inl hphase), rfl, sub_self _, rfl, rfl, rfl, rfl,
        rfl, rfl, rfl⟩
    case jump =>
      have hstart := (startOfSegment_jump (i := d.position) hop hmoves hopen).trans
        (if_neg (mt (cuts_jump_iff hop hmoves hopen).mp hcut))
      refine makes_of_ready (advanceFrom_of_reached hpass hbefore hstart) ?_
      have h := makeRecord_startSegment e (c := { d with seam := false }) d.position (jumpSteps e.st g.a g.b) g rest
        ht hphase
      have hkind : g.recordKind = .jump := if_neg (by rw [hop]; nofun)
      exact ⟨h.kind.trans hkind, by rw [h.planned, hkind]; rfl, h.dy, h.dx, h.intended, h.panelY,
        by rw [h.seam, hkind]; rfl, h.tack, h.segment, h.step, h.steps⟩
    case tack =>
      exact ⟨_, plan_of_startTack (advanceFrom_of_reached hpass hbefore (startOfSegment_tack hop)) (by omega)
        (.inl hphase), rfl, sub_self _, rfl, rfl, rfl, rfl, rfl, rfl, rfl, rfl⟩
  case step =>
    have hcut : ¬ e.cuts c g = true := by
      rw [cuts_iff]
      exact fun h => absurd (hwithin h.1) (Int.not_le.mpr h.2)
    subst hhand
    refine makes_of_ready (advanceFrom_of_step ht hphase hstep hcut) ?_
    rw [makeRecord_of_body ht hphase]
    exact ⟨rfl, g.planned_recordKind _, rfl, rfl, rfl, rfl, rfl, congrArg (c.seam || ·) g.sews_recordKind, rfl⟩
  case bodyTacked =>
    obtain ⟨d', has, hplan⟩ := plan_of_bodyEnds_tacked hends hseam hcount
    rw [has.tackCount, has.tackLength] at hplan
    exact ⟨_, hplan, rfl, sub_self _, rfl, congrArg (e.order.groups &&& ·) has.mask, has.phase, rfl,
      has.panelY, has.intended⟩
  case runOutBegins =>
    obtain ⟨d', has, hplan⟩ := plan_of_bodyEnds_runOut hends hopen hlength
    obtain ⟨hdy, hintended, hpanelY⟩ := has.runOutStep (e := e) rfl
    have hphase := runOutStep_phase e (c := d'.startRunOut e) rfl
    rw [has.startRunOut_steps] at hplan hphase
    exact ⟨_, hplan, rfl, rfl, hdy, by rw [← has.intended]; rfl, hintended, hpanelY, has.startRunOut_cutMark, hphase⟩
  case copyEnds =>
    obtain ⟨d', has, hplan⟩ := plan_of_bodyEnds_ended hends hopen hdx hdy
    exact ⟨_, hplan, rfl, has.startRunOut_cutMark⟩
  case runOut =>
    have hplan := plan_of_runOut (advanceFrom_of_runOut (e := e) (hand := hand) ht hphase hstep) ht hphase
    have hfirst : decide (c.phase = .leadIn ∧ c.step = 0) = false := by simp [hphase]
    rw [hfirst] at hplan
    exact ⟨_, hplan, rfl, rfl, rfl, rfl, rfl, rfl, rfl, runOutStep_phase e hphase⟩

end Sys2Proof.Machine
end

section
/-! SUPPORT. The order of the window: what each operation on the ring does to the serials, the kinds and the cursors, and that every
command keeps them. -/

namespace Sys2Proof.Machine

/-! ### Serials (R80) -/

theorem nextSerial_ne_zero (a : Word32) : nextSerial a ≠ 0 := by
  unfold nextSerial
  split
  · decide
  · next hlast => exact fun hzero => hlast ((eq_neg_of_add_eq_zero_left hzero).trans BitVec.neg_one_eq_allOnes)

theorem toNat_nextSerial {a : Word32} (h : a ≠ 0) : (nextSerial a).toNat = a.toNat % (2 ^ 32 - 1) + 1 := by
  have hpos : a.toNat ≠ 0 := fun hzero => h (BitVec.eq_of_toNat_eq hzero)
  unfold nextSerial
  split
  · next hlast => rw [hlast]; rfl
  · next hlast =>
    have hbelow : a.toNat ≠ 2 ^ 32 - 1 := fun htop => hlast (BitVec.eq_of_toNat_eq htop)
    have hlt := a.isLt
    rw [BitVec.toNat_add]
    change (a.toNat + 1) % 2 ^ 32 = _
    omega

theorem iterate_nextSerial_ne_zero {a : Word32} (h : a ≠ 0) (k : Nat) : nextSerial^[k] a ≠ 0 := by
  cases k with
  | zero => exact h
  | succ k => rw [Function.iterate_succ_apply']; exact nextSerial_ne_zero _

/-- The serials run through all values but 0 before one comes again. -/
theorem toNat_iterate_nextSerial {a : Word32} (h : a ≠ 0) (k : Nat) :
    (nextSerial^[k] a).toNat = (a.toNat - 1 + k) % (2 ^ 32 - 1) + 1 := by
  have hpos : a.toNat ≠ 0 := fun hzero => h (BitVec.eq_of_toNat_eq hzero)
  have hlt := a.isLt
  induction k with
  | zero => rw [Function.iterate_zero_apply]; omega
  | succ k ih =>
    rw [Function.iterate_succ_apply', toNat_nextSerial (iterate_nextSerial_ne_zero h k), ih]
    omega

/-! ### Serials that follow one another (R79) -/

/-- A record behind another has the serial given that many records later. -/
theorem Consecutive.behind {counter : Word32} {r : Record} {rest : List Record} (h : Consecutive counter (r :: rest)) :
    ∀ x ∈ rest, ∃ k, 1 ≤ k ∧ k ≤ rest.length ∧ x.serial = nextSerial^[k] r.serial := by
  induction rest generalizing r with
  | nil => simp
  | cons b rest ih =>
    obtain ⟨hnext, hrest⟩ := h
    intro x hx
    rcases List.mem_cons.1 hx with rfl | hx
    · exact ⟨1, Nat.le_refl _, by simp, hnext.symm⟩
    · obtain ⟨k, -, hk, hserial⟩ := ih hrest x hx
      refine ⟨k + 1, by omega, by rw [List.length_cons]; omega, ?_⟩
      rw [hserial, Function.iterate_succ_apply, hnext]
      rfl

/-- In a ring of at most 16 records the oldest serial stands once. -/
theorem Consecutive.serial_ne {counter : Word32} {r : Record} {rest : List Record} (h : Consecutive counter (r :: rest))
    (hgiven : r.serial ≠ 0) (hlen : rest.length < 16) : ∀ x ∈ rest, x.serial ≠ r.serial := by
  intro x hx hsame
  obtain ⟨k, hpos, hk, hserial⟩ := h.behind x hx
  have htoNat := toNat_iterate_nextSerial hgiven k
  have hlt := r.serial.isLt
  have hone : r.serial.toNat ≠ 0 := fun hzero => hgiven (BitVec.eq_of_toNat_eq hzero)
  rw [← hserial, hsame] at htoNat
  omega

/-- A record with the counter's serial joins at the tail (R80). -/
theorem Consecutive.append {counter : Word32} {ring : List Record} (h : Consecutive counter ring) {r : Record}
    (hr : r.serial = counter) : Consecutive (nextSerial counter) (ring ++ [r]) := by
  induction ring with
  | nil => exact ⟨congrArg nextSerial hr, trivial⟩
  | cons b rest ih =>
    obtain ⟨hnext, hrest⟩ := h
    refine ⟨?_, ih hrest⟩
    cases rest with
    | nil => exact hnext.trans hr.symm
    | cons => exact hnext

theorem consecutive_map {counter : Word32} {ring : List Record} (h : Consecutive counter ring) {f : Record → Record}
    (hf : ∀ x ∈ ring, (f x).serial = x.serial) : Consecutive counter (ring.map f) := by
  induction ring with
  | nil => trivial
  | cons b rest ih =>
    obtain ⟨hnext, hrest⟩ := h
    refine ⟨?_, ih hrest fun x hx => hf x (List.mem_cons_of_mem _ hx)⟩
    rw [hf b List.mem_cons_self, hnext]
    cases rest with
    | nil => rfl
    | cons c rest =>
      have hc : (f c).serial = c.serial := hf c (by simp)
      exact hc.symm

/-! ### The window, operation by operation -/

/-- What `WindowOrdered` and `SerialsGiven` ask of the window. -/
structure Window.Sound (w : Window) : Prop where
  bounded : w.ring.length ≤ 16
  consecutive : Consecutive w.counter w.ring
  behind : ∀ r ∈ w.ring.tail, r.kind ≠ .reposition
  waiting : ∀ r ∈ w.waiting, r.kind ≠ .reposition
  counter : w.counter ≠ 0
  headNext : w.headNext ≠ 0
  feedNext : w.feedNext ≠ 0
  ring : ∀ r ∈ w.ring, r.serial ≠ 0

namespace Window.Sound

variable {w : Window}

/-- A window that holds nothing is as its counter and its cursors are. -/
theorem of_empty (hring : w.ring = []) (hwaiting : w.waiting = []) (hcounter : w.counter ≠ 0) (hhead : w.headNext ≠ 0)
    (hfeed : w.feedNext ≠ 0) : w.Sound := by
  refine ⟨?_, ?_, ?_, ?_, hcounter, hhead, hfeed, ?_⟩ <;> simp [hring, hwaiting, Consecutive]

theorem setCursors (h : w.Sound) {serial : Word32} (hs : serial ≠ 0) : (w.setCursors serial).Sound :=
  { h with headNext := hs, feedNext := hs }

theorem advanceCursor (h : w.Sound) (d : Drive) : (w.advanceCursor d).Sound := by
  cases d with
  | head => exact { h with headNext := nextSerial_ne_zero _ }
  | feed => exact { h with feedNext := nextSerial_ne_zero _ }

theorem setLeadLimit (h : w.Sound) (n : Nat) : ({ w with leadLimit := n } : Window).Sound := { h with }

theorem setWaiting (h : w.Sound) {waiting : List Record} (hw : ∀ r ∈ waiting, r.kind ≠ .reposition) :
    ({ w with waiting := waiting } : Window).Sound := { h with waiting := hw }

/-- Every record and every one that waits is discarded (R94). -/
theorem emptied (h : w.Sound) : ({ w with ring := [], waiting := [] } : Window).Sound :=
  of_empty rfl rfl h.counter h.headNext h.feedNext

/-- The oldest record leaves. -/
theorem drop_oldest (h : w.Sound) {r : Record} {rest : List Record} (hring : w.ring = r :: rest) :
    ({ w with ring := rest } : Window).Sound := by
  obtain ⟨hbounded, hconsecutive, hbehind, hwaiting, hcounter, hhead, hfeed, hserials⟩ := h
  rw [hring] at hbounded hconsecutive hbehind hserials
  exact ⟨Nat.le_of_succ_le hbounded, hconsecutive.2, fun x hx => hbehind x (List.mem_of_mem_tail hx), hwaiting, hcounter,
    hhead, hfeed, fun x hx => hserials x (List.mem_cons_of_mem _ hx)⟩

/-- A record joins where there is a place, a REPOSITION record an empty ring only (R80, R89). -/
theorem join (h : w.Sound) (hplace : w.ring.length < 16) {r : Record} (hkind : w.ring = [] ∨ r.kind ≠ .reposition) :
    (w.join r).Sound where
  bounded := by simp only [Window.join, List.length_append, List.length_singleton]; omega
  consecutive := h.consecutive.append rfl
  behind := by
    intro x hx
    unfold Window.join at hx
    rcases hkind with hempty | hkind
    · simp [hempty] at hx
    · cases hring : w.ring with
      | nil => simp [hring] at hx
      | cons b rest =>
        have hbehind := h.behind
        simp only [hring, List.cons_append, List.tail_cons, List.mem_append, List.mem_singleton] at hx hbehind
        rcases hx with hx | rfl
        · exact hbehind x hx
        · exact hkind
  waiting := h.waiting
  counter := nextSerial_ne_zero _
  headNext := h.headNext
  feedNext := h.feedNext
  ring := by
    intro x hx
    rcases List.mem_append.1 hx with hx | hx
    · exact h.ring x hx
    · rw [List.mem_singleton.1 hx]; exact h.counter

theorem joinWaiting (h : w.Sound) (n : Nat) : (w.joinWaiting n).Sound := by
  induction n generalizing w with
  | zero => exact h
  | succ n ih =>
    unfold Window.joinWaiting
    split
    · exact h
    · next r rest hwaiting =>
      split
      · next hplace =>
        have hkinds := h.waiting
        rw [hwaiting] at hkinds
        have hrest := h.setWaiting (waiting := rest) fun x hx => hkinds x (List.mem_cons_of_mem _ hx)
        exact ih (hrest.join hplace (.inr (hkinds r List.mem_cons_self)))
      · exact h

/-- A record found by its serial changes, its serial and its kind apart. -/
theorem update (h : w.Sound) {serial : Word32} {r r' : Record} (hfind : w.find serial = some r)
    (hserial : r'.serial = r.serial) (hkind : r'.kind = r.kind) : (w.update serial fun _ => r').Sound := by
  have hr : r.serial = serial := by simpa using List.find?_some hfind
  have hsame : ∀ x ∈ w.ring, (if x.serial == serial then r' else x).serial = x.serial := by
    intro x _
    split
    · next hx => rw [hserial, hr, beq_iff_eq.1 hx]
    · rfl
  refine { h with
    bounded := by rw [length_update]; exact h.bounded
    consecutive := consecutive_map h.consecutive hsame
    behind := ?_
    ring := ?_ }
  · intro y hy
    unfold Window.update at hy
    cases hring : w.ring with
    | nil => simp [hring] at hy
    | cons b rest =>
      obtain ⟨hbounded, hconsecutive, hbehind, -, -, -, -, hserials⟩ := h
      rw [Window.find, hring] at hfind
      rw [hring] at hbounded hconsecutive hbehind hserials
      simp only [hring, List.map_cons, List.tail_cons, List.mem_map] at hy
      obtain ⟨x, hx, rfl⟩ := hy
      split
      · next hmatch =>
        have hhead : b.serial ≠ serial := fun hb =>
          hconsecutive.serial_ne (hserials b List.mem_cons_self) hbounded x hx ((beq_iff_eq.1 hmatch).trans hb.symm)
        rw [hkind]
        rw [List.find?_cons_of_neg (by simpa using hhead)] at hfind
        exact hbehind r (List.mem_of_find?_eq_some hfind)
      · exact hbehind x hx
  · intro y hy
    obtain ⟨x, hx, rfl⟩ := List.mem_map.1 hy
    rw [hsame x hx]
    exact h.ring x hx

/-- A REPOSITION record stands at the head of the ring. -/
theorem ring_of_reposition (h : w.Sound) {serial : Word32} {r : Record} (hfind : w.find serial = some r)
    (hkind : r.kind = .reposition) : ∃ rest, w.ring = r :: rest := by
  have hmem := List.mem_of_find?_eq_some hfind
  cases hring : w.ring with
  | nil => rw [hring] at hmem; cases hmem
  | cons b rest =>
    rw [hring] at hmem
    rcases List.mem_cons.1 hmem with rfl | hmem
    · exact ⟨rest, rfl⟩
    · exact absurd hkind (h.behind r (by rw [hring]; exact hmem))

/-- No carried record is a REPOSITION record (R131). -/
theorem carried (h : w.Sound) : ∀ r ∈ w.carried, r.kind ≠ .reposition := by
  intro r hr
  unfold Window.carried at hr
  split at hr
  · cases hr
  · next b rest hring =>
    split at hr
    · cases hr
    · next hhead =>
      obtain ⟨x, hx, rfl⟩ := List.mem_map.1 hr
      show x.kind ≠ .reposition
      rcases List.mem_append.1 hx with hx | hx
      · have hbehind := h.behind
        rw [hring] at hbehind
        rw [hring] at hx
        rcases List.mem_cons.1 (List.mem_of_mem_filter hx) with rfl | hx
        · exact hhead
        · exact hbehind x hx
      · exact h.waiting x hx

/-- In an emptied window the REPOSITION record comes first, and the replay list behind it (R95, R135). -/
theorem placeReplay (h : w.Sound) (hempty : w.ring = []) (reposition : Record) {replay : List Record}
    (hreplay : ∀ r ∈ replay, r.kind ≠ .reposition) : (w.placeReplay reposition replay).Sound :=
  (((h.join (by rw [hempty]; decide) (.inl hempty)).setWaiting hreplay).joinWaiting _).setCursors h.counter

end Window.Sound

theorem Window.sound_afterReset (leadLimit : Nat) : (Window.afterReset leadLimit).Sound :=
  .of_empty rfl rfl (by simp [Window.afterReset]) (by simp [Window.afterReset]) (by simp [Window.afterReset])

/-! ### The window and the history of the part -/

/-- The window is sound, and no REPOSITION record has been filed (R93). -/
def RecordsSound (s : State) : Prop := s.sw.Sound ∧ ∀ e ∈ s.gh.history, e.kind ≠ .reposition

theorem recordsSound_iff (s : State) : RecordsSound s ↔ WindowOrdered s ∧ SerialsGiven s := by
  constructor
  · rintro ⟨⟨hbounded, hconsecutive, hbehind, hwaiting, hcounter, hhead, hfeed, hring⟩, hfiled⟩
    exact ⟨⟨hbounded, hconsecutive, hbehind, hwaiting, hfiled⟩, hcounter, hhead, hfeed, hring⟩
  · rintro ⟨⟨hbounded, hconsecutive, hbehind, hwaiting, hfiled⟩, hcounter, hhead, hfeed, hring⟩
    exact ⟨⟨hbounded, hconsecutive, hbehind, hwaiting, hcounter, hhead, hfeed, hring⟩, hfiled⟩

/-- The window and the history stand as they stood. -/
def SameRecords (s t : State) : Prop := t.sw = s.sw ∧ t.gh.history = s.gh.history

theorem RecordsSound.of_same {s t : State} (h : RecordsSound s) (hsame : SameRecords s t) : RecordsSound t := by
  obtain ⟨hsw, hhistory⟩ := hsame
  rw [RecordsSound, hsw, hhistory]
  exact h

theorem RecordsSound.setSw {s : State} (h : RecordsSound s) {x : Window} (hx : x.Sound) : RecordsSound (s.setSw x) :=
  ⟨hx, h.2⟩

theorem RecordsSound.settle {s : State} (h : RecordsSound s) : RecordsSound (settle s) := h.of_same (by simp [SameRecords])

theorem RecordsSound.answer {s : State} (h : RecordsSound s) {sv : Service} {st : Status} {ps : List Byte} :
    RecordsSound (answer sv st ps s) := h.of_same ⟨rfl, rfl⟩

/-! ### Operations that leave the window and the history -/

@[simp] theorem holdSeen_records (asserted : Bool) (s : State) :
    (holdSeen asserted s).sw = s.sw ∧ (holdSeen asserted s).gh = s.gh := by
  unfold holdSeen; dsimp only; (repeat' split) <;> simp
@[simp] theorem enterHalted_records (r : StateReason) (s : State) :
    (enterHalted r s).sw = s.sw ∧ (enterHalted r s).gh = s.gh := ⟨rfl, rfl⟩
@[simp] theorem spliceOverflow_records (s : State) :
    (spliceOverflow s).sw = s.sw ∧ (spliceOverflow s).gh = s.gh := by
  unfold spliceOverflow; split <;> simp
@[simp] theorem markLate_records (s : State) : (markLate s).sw = s.sw ∧ (markLate s).gh = s.gh := by
  simp [markLate_keeps]
@[simp] theorem applyTravel_records (s : State) : (applyTravel s).sw = s.sw ∧ (applyTravel s).gh = s.gh := ⟨rfl, rfl⟩
@[simp] theorem storeSetting_records (sv : Service) (code : Byte) (width v : Nat) (s : State) :
    (storeSetting sv code width v s).sw = s.sw ∧ (storeSetting sv code width v s).gh = s.gh := by
  unfold storeSetting; (repeat' split) <;> simp
@[simp] theorem orderJoined_records (o : Order) (s : State) :
    (orderJoined o s).sw = s.sw ∧ (orderJoined o s).gh = s.gh := by
  unfold orderJoined; split <;> simp
@[simp] theorem leaveOrder_records (o : Option Order) (s : State) :
    (leaveOrder o s).sw = s.sw ∧ (leaveOrder o s).gh = s.gh := by
  unfold leaveOrder; (repeat' split) <;> simp
@[simp] theorem cancelRemove_records (o : Order) (s : State) :
    (cancelRemove o s).sw = s.sw ∧ (cancelRemove o s).gh = s.gh := by
  unfold cancelRemove; dsimp only; split <;> simp
@[simp] theorem endRequested_records (s : State) : (endRequested s).sw = s.sw ∧ (endRequested s).gh = s.gh := by
  unfold endRequested; dsimp only; split <;> simp
@[simp] theorem resumeSettled_records (sv : Service) (s : State) :
    (resumeSettled sv s).sw = s.sw ∧ (resumeSettled sv s).gh = s.gh := by
  unfold resumeSettled; (repeat' split) <;> simp
@[simp] theorem acceptOp_records (sv : Service) (work : OpWork) (point : OpPoint) (s : State) :
    (acceptOp sv work point s).sw = s.sw ∧ (acceptOp sv work point s).gh = s.gh := by simp [acceptOp]
@[simp] theorem commitDecision_records (sv : Service) (slot page : Nat) (written : Bool) (s : State) :
    (commitDecision sv slot page written s).sw = s.sw ∧ (commitDecision sv slot page written s).gh = s.gh := by
  unfold commitDecision; (repeat' split) <;> simp
@[simp] theorem closingRead_records (s : State) : (closingRead s).sw = s.sw ∧ (closingRead s).gh = s.gh := by
  unfold closingRead; dsimp only; (repeat' split) <;> exact ⟨rfl, rfl⟩
@[simp] theorem writtenRead_records (slot page : Nat) (s : State) :
    (writtenRead slot page s).sw = s.sw ∧ (writtenRead slot page s).gh = s.gh := by
  unfold writtenRead; split <;> simp
@[simp] theorem libraryRead_records (slot page offset count : Nat) (s : State) :
    (libraryRead slot page offset count s).sw = s.sw ∧ (libraryRead slot page offset count s).gh = s.gh := by
  unfold libraryRead; split <;> simp
@[simp] theorem reloadRead_records (s : State) : (reloadRead s).sw = s.sw ∧ (reloadRead s).gh = s.gh := by
  unfold reloadRead; (repeat' split) <;> simp [reloadOutcome]
@[simp] theorem expanderRead_records (slot index : Nat) (live : Bool) (s : State) :
    (expanderRead slot index live s).sw = s.sw ∧ (expanderRead slot index live s).gh = s.gh := by
  unfold expanderRead; split <;> simp
@[simp] theorem scanNext_records (r : ScanRead) (s : State) :
    (scanNext r s).sw = s.sw ∧ (scanNext r s).gh = s.gh := ⟨rfl, rfl⟩
@[simp] theorem classified_records (found : List SlotEntry) (e : SlotEntry) (s : State) :
    (classified found e s).sw = s.sw ∧ (classified found e s).gh = s.gh := by
  unfold classified reachReady; dsimp only; split <;> simp
@[simp] theorem scanWalk_records (found : List SlotEntry) (slot : Nat) (r : WalkResult) (s : State) :
    (scanWalk found slot r s).sw = s.sw ∧ (scanWalk found slot r s).gh = s.gh := by
  unfold scanWalk; split <;> simp

/-! ### Commands that leave the window and the history -/

/-- The commands that can change the window or the history: resets, the setup load, the expander's event, retirement, the takes and
the requests that place or discard records. -/
def movesRecords : Instr → Bool
  | .powerOn | .powerOff _ | .resetnAssert _ | .resetnRelease | .resetPartApply | .needleUp _ | .expansionEvent
  | .readComplete | .takeHead _ _ | .takeFeed _ _ | .reportMoved _ _ | .start _ | .abort _ | .backstitch _ _ => true
  | _ => false

theorem whenReady_sameRecords {s : State} {f : State → State} (hf : SameRecords s (f s)) :
    SameRecords s (whenReady s f) :=
  whenReady_keeps ⟨rfl, rfl⟩ fun _ => hf

theorem whenPowered_sameRecords {s : State} {f : State → State} (hf : SameRecords s (f s)) :
    SameRecords s (whenPowered s f) :=
  whenPowered_keeps ⟨rfl, rfl⟩ fun _ => hf

/-- A request leaves the window and the history when its owner's step does. -/
theorem takeRequest_sameRecords {c : Instr} {own : Service → State → State} {s : State}
    (hown : ∀ sv s', SameRecords s' (own sv s')) : SameRecords s (takeRequest c own s) :=
  takeRequest_keeps ⟨rfl, rfl⟩ (fun _ _ _ => by simp [SameRecords]) fun sv s' h _ =>
    ⟨(hown sv s').1.trans h.1, (hown sv s').2.trans h.2⟩

theorem exec_sameRecords {c : Instr} (h : movesRecords c = false) (s : State) : Leaves (exec c s) (SameRecords s) := by
  cases c with
  | powerOn | powerOff | resetnAssert | resetnRelease | resetPartApply | needleUp | expansionEvent | readComplete | takeHead
  | takeFeed | reportMoved | start | abort | backstitch => cases h
  | holdSeenChange | stopSilenceExpiry | resumeSettleEnd | frameHandOn | notAStartMark =>
    refine ⟨_, rfl, whenReady_sameRecords ?_⟩
    (repeat' split) <;> simp [SameRecords]
  | programStepComplete | eraseComplete | boundExpiry | progressIntervalEnd =>
    refine ⟨_, rfl, whenPowered_sameRecords ?_⟩
    (repeat' split) <;> simp [SameRecords]
  | inboundFrame | frameNotForPart | lineIdle | frameStart | frameDelivered | arbitrationLost | errorAbort =>
    exact ⟨_, rfl, whenReady_sameRecords ⟨rfl, rfl⟩⟩
  | reportBreak | reportSplice | setSetting | setRole =>
    refine ⟨_, rfl, takeRequest_sameRecords fun _ _ => ?_⟩
    dsimp only
    (repeat' split) <;> simp [SameRecords]
  | loadBuffer | clearBuffer | commitPage | eraseSlot | closeSlot | readLibrary | readOutcome | enqueue | cancel | readQueue
  | readOrder | stop | endRun | resume | clearCauses | reportStopped | readStatus | readCounters | clearCounters
  | reportMended | park | unpark | readHistory | cutQuery | cutDone | writeSetup | reloadSetup | resetPart | readSetting
  | readTable =>
    refine ⟨_, rfl, takeRequest_sameRecords fun _ _ => ?_⟩
    (repeat' split) <;> simp [SameRecords]

/-! ### Commands that move records -/

theorem recordsSound_held (pins : Pins) (array : List Host.Cell) (pending : List Instr) :
    RecordsSound (State.held pins array pending) :=
  ⟨Window.sound_afterReset _, by simp [State.held, Groups.afterReset]⟩

theorem recordsSound_startUp (array : List Host.Cell) (pending : List Instr) :
    RecordsSound (State.startUp array pending) :=
  (recordsSound_held ⟨true, false⟩ array pending).of_same ⟨rfl, rfl⟩

theorem recordsSound_partReset (s : State) : RecordsSound s.partReset := ⟨Window.sound_afterReset _, by
  simp [State.partReset, Groups.afterReset]⟩

/-- The setup load alone of start-up's reads reaches the window, and there the lead limit (R174). -/
theorem RecordsSound.setupLoad {s : State} (h : RecordsSound s) : RecordsSound (setupLoad s) := by
  unfold Machine.setupLoad followSettings
  dsimp only
  split <;> exact ⟨h.1.setLeadLimit _, h.2⟩

theorem RecordsSound.deliver {s : State} (h : RecordsSound s) (r : ReadFor) : RecordsSound (deliver r s) := by
  cases r with
  | scan r =>
    simp only [Machine.deliver]
    split
    · cases r with
      | setup => exact h.setupLoad.of_same ⟨rfl, rfl⟩
      | page | mark =>
        refine h.of_same ?_
        simp only [scanRead]
        (repeat' split) <;> simp [SameRecords]
      | header | segment => exact h.of_same (by simp [SameRecords, scanRead])
    · exact h
  | _ => exact h.of_same (by simp [SameRecords, Machine.deliver])

/-- A record planned for a copy is a SEW, TACK or JUMP record. -/
theorem makeRecord_kind_ne_reposition (e : CopyEnv) (c : Context) (hand : List (Nat × Segment)) :
    (makeRecord e c hand).kind ≠ .reposition := by
  unfold makeRecord
  split
  · exact nofun
  · split
    · exact nofun
    · show (if _ then Kind.sew else Kind.jump) ≠ .reposition
      split <;> exact nofun
    · exact nofun

theorem plan_kind_ne_reposition {s : State} {m : Making} {first last closing : Bool}
    (h : s.plan = .make m first last closing) : m.kind ≠ .reposition := by
  unfold State.plan at h
  split at h
  · cases h
  · split at h
    · cases h
    · split at h
      · cases h
      · obtain ⟨⟨c', hand', -, rfl⟩, -, -⟩ := plan_make_cases h
        exact makeRecord_kind_ne_reposition _ _ _

/-- Before a record that can be made the expander stands in EXPANDING only where the window has a place (R55). -/
theorem length_of_readyState {closing : Bool} {s : State} (h : readyState closing s = .expanding) :
    s.sw.ring.length < 16 := by
  unfold readyState at h
  split at h
  · cases h
  · split at h
    · cases h
    · next hfull =>
      simp only [Window.full, Bool.or_eq_true, decide_eq_true_eq, not_or, Nat.not_le] at hfull
      exact hfull.1

/-- The expander's record joins with a serial of its own (R56, R80). -/
theorem RecordsSound.appendRecord {s : State} (h : RecordsSound s) {m : Making} {first last closing : Bool} (tag : Word16)
    (copy : Nat) (hplan : s.plan = .make m first last closing) (hready : readyState closing s = .expanding) :
    RecordsSound (appendRecord m tag copy first last s) := by
  rw [RecordsSound, appendRecord_sw, appendRecord_gh]
  have hkind : (m.toRecord tag copy first last).kind ≠ .reposition := plan_kind_ne_reposition hplan
  exact ⟨h.1.join (length_of_readyState hready) (.inr hkind), h.2⟩

theorem RecordsSound.placesFreed {s : State} (h : RecordsSound s) : RecordsSound (placesFreed s) :=
  (h.setSw (h.1.joinWaiting _)).settle

/-- The oldest record retires, and is no REPOSITION record (R91). -/
theorem RecordsSound.retire {s : State} (h : RecordsSound s) {r : Record} {rest : List Record}
    (hring : s.sw.ring = r :: rest) (hkind : r.kind ≠ .reposition) : RecordsSound (retire r s) := by
  rw [RecordsSound, retire_sw, retire_gh, remove_oldest hring]
  refine ⟨(h.1.drop_oldest hring).joinWaiting 16, fun e he => ?_⟩
  rcases List.mem_append.1 (List.mem_of_mem_drop he) with he | he
  · exact h.2 e he
  · rw [List.mem_singleton.1 he]
    exact hkind

theorem finding_retired {w : Window} {r : Record} (h : w.finding = .retired r) :
    r.kind ≠ .reposition ∧ ∃ rest, w.ring = r :: rest := by
  unfold Window.finding at h
  split at h
  · cases h
  · next b rest hring =>
    split at h
    · next hsewn => cases h; exact ⟨hsewn.1, rest, hring⟩
    · cases h

theorem RecordsSound.needleUp {s : State} (h : RecordsSound s) : RecordsSound (needleUp s) := by
  have hretire : ∀ (u : State) (r : Record), SameRecords s u → s.sw.finding = .retired r →
      RecordsSound (Machine.retire r u) := fun u r hu hfound => by
    obtain ⟨hkind, rest, hring⟩ := finding_retired hfound
    exact (h.of_same hu).retire (by rw [hu.1]; exact hring) hkind
  unfold Machine.needleUp
  split
  · exact h.of_same (by simp [SameRecords])
  · exact h.of_same (by simp [SameRecords])
  · exact h.of_same (by simp [SameRecords])
  · unfold needleUpRun
    split
    · next hfound => exact hretire s _ ⟨rfl, rfl⟩ hfound
    · exact h.of_same (by simp [SameRecords])
    · exact h.of_same (by simp [SameRecords])
  · unfold needleUpHalting
    dsimp only
    split
    · next hfound => exact hretire _ _ ⟨rfl, rfl⟩ hfound
    · exact h.of_same (by simp [SameRecords])
    · exact h.of_same (by simp [SameRecords])

/-- The REPOSITION record at the head of the ring retires without being filed (R93). -/
theorem RecordsSound.retireReposition {s : State} (h : RecordsSound s) {r : Record} {rest : List Record}
    (hring : s.sw.ring = r :: rest) : RecordsSound (retireReposition r s) := by
  refine RecordsSound.placesFreed ⟨?_, h.2⟩
  show (s.sw.remove r.serial).Sound
  rw [remove_oldest hring]
  exact h.1.drop_oldest hring

theorem takeCase_served {w : Window} {d : Drive} {serial : Word32} {r : Record} (h : w.takeCase d serial = .served r) :
    w.find serial = some r := by
  unfold Window.takeCase at h
  (repeat' split at h) <;> simp_all

theorem serve_serial_kind (r : Record) (parked : Word32) (zones : List Zone) (d : Drive) :
    (r.serve parked zones d).serial = r.serial ∧ (r.serve parked zones d).kind = r.kind := by
  cases d with
  | head => simp only [Record.serve, Record.fixSet]; split <;> exact ⟨rfl, rfl⟩
  | feed => exact ⟨rfl, rfl⟩

theorem RecordsSound.take {s : State} (h : RecordsSound s) (d : Drive) (serial : Word32) (sv : Service) :
    RecordsSound (take d serial sv s) := by
  unfold Machine.take
  split
  · exact h.answer
  · split
    · exact h.answer
    · cases hcase : s.sw.takeCase d serial with
      | served r =>
        obtain ⟨hserial, hkind⟩ := serve_serial_kind r s.gh.parked s.wt.zones d
        exact (h.setSw ((h.1.update (takeCase_served hcase) hserial hkind).advanceCursor d)).answer
      | gone | again | lead | notMade | outOfSequence => exact h.answer

theorem setMoved_serial_kind (r : Record) (d : Drive) :
    (r.setMoved d).serial = r.serial ∧ (r.setMoved d).kind = r.kind := by
  cases d <;> exact ⟨rfl, rfl⟩

/-- The oldest record changes at the head of the ring. -/
theorem update_ring_of_find {w : Window} {serial : Word32} {r : Record} {rest : List Record} (hfind : w.find serial = some r)
    (hring : w.ring = r :: rest) (r' : Record) :
    (w.update serial fun _ => r').ring = r' :: rest.map fun x => if x.serial == serial then r' else x := by
  have hserial : (r.serial == serial) = true := List.find?_some (p := fun x : Record => x.serial == serial) hfind
  rw [Window.update, hring, List.map_cons, if_pos hserial]

theorem RecordsSound.discard {s : State} (h : RecordsSound s) : RecordsSound (discard s) := ⟨h.1.emptied, h.2⟩

theorem RecordsSound.abortRun {s : State} (h : RecordsSound s) : RecordsSound (abortRun s) := by
  rw [RecordsSound, abortRun_sw, abortRun_gh]
  exact ⟨h.1.emptied.setCursors h.1.counter, h.2⟩

theorem RecordsSound.startRun {s : State} (h : RecordsSound s) : RecordsSound (startRun s) := by
  have hsound : (({ s.sw with leadLimit := s.st.working.leadLimit } : Window).setCursors s.sw.counter).Sound :=
    (h.1.setLeadLimit _).setCursors h.1.counter
  exact (h.setSw hsound).of_same (by simp [SameRecords, Machine.startRun])

/-- A BACKSTITCH whose replay list holds no REPOSITION record leaves its own at the head alone (R133, R135). -/
theorem RecordsSound.backstitch {s : State} (h : RecordsSound s) (reposition : Record) {replay : List Record}
    (hreplay : ∀ r ∈ replay, r.kind ≠ .reposition) : RecordsSound (backstitch reposition replay s) := by
  have hplaced : RecordsSound ((rollback (Machine.discard s)).setSw
      ((rollback (Machine.discard s)).sw.placeReplay reposition replay)) := by
    refine ⟨?_, by simpa using h.2⟩
    rw [setSw_sw, rollback_sw]
    exact h.discard.1.placeReplay rfl reposition hreplay
  exact hplaced.settle.of_same ⟨rfl, rfl⟩

/-- What is replayed are history entries and carried records (R131, R134). -/
theorem RecordsSound.replay_kinds {s : State} (h : RecordsSound s) {entries : List HistoryEntry}
    (hentries : ∀ e ∈ entries, e ∈ s.gh.history) :
    ∀ r ∈ entries.map HistoryEntry.replay ++ s.sw.carried, r.kind ≠ .reposition := by
  intro r hr
  rcases List.mem_append.1 hr with hr | hr
  · obtain ⟨e, he, rfl⟩ := List.mem_map.1 hr
    exact h.2 e (hentries e he)
  · exact h.1.carried r hr

/-! ### Every command -/

theorem exec_recordsSound (c : Instr) {s : State} (h : RecordsSound s) : Leaves (exec c s) RecordsSound := by
  have request : ∀ {c : Instr} {own : Service → State → State}, (∀ sv s', RecordsSound s' → RecordsSound (own sv s')) →
      RecordsSound (takeRequest c own s) := fun hown =>
    takeRequest_keeps h (fun _ _ _ => h.of_same (by simp [SameRecords])) fun sv s' h' _ => hown sv s' h'
  cases hc : movesRecords c with
  | false =>
    obtain ⟨t, ht, hsame⟩ := exec_sameRecords hc s
    exact ⟨t, ht, h.of_same hsame⟩
  | true =>
    cases c with
    | powerOn => exact ⟨_, rfl, by split; exacts [recordsSound_held .., recordsSound_startUp ..]⟩
    | powerOff | resetnAssert => exact ⟨_, rfl, recordsSound_held ..⟩
    | resetnRelease => exact ⟨_, rfl, by split; exacts [recordsSound_startUp .., h.of_same ⟨rfl, rfl⟩]⟩
    | resetPartApply =>
      exact ⟨_, rfl, whenReady_keeps h fun _ => by
        split; exacts [(recordsSound_partReset s).of_same ⟨rfl, rfl⟩, h]⟩
    | needleUp us => exact ⟨_, rfl, whenReady_keeps h fun _ => by split; exacts [h.needleUp, h]⟩
    | expansionEvent =>
      refine ⟨_, rfl, whenReady_keeps h fun _ => ?_⟩
      split
      · next hplan _ _ =>
        split
        · next hready => exact (h.appendRecord _ _ hplan hready).settle
        · exact h
      · exact h
    | readComplete =>
      refine ⟨_, rfl, whenPowered_keeps h fun _ => ?_⟩
      split
      · exact h
      · have hfree : RecordsSound (s.setPort { s.pl.port with inFlight := none }) := h.of_same ⟨rfl, rfl⟩
        exact (hfree.deliver _).settle
    | takeHead src serial | takeFeed src serial =>
      refine ⟨_, rfl, request fun sv s' h' => ?_⟩
      exact h'.take ..
    | reportMoved src serial =>
      refine ⟨_, rfl, request fun sv s' h' => ?_⟩
      dsimp only
      split
      · exact h'.answer
      · split
        · exact h'.answer
        · split
          · exact h'.answer
          · next r hfind =>
            split
            · exact h'.answer
            · next hmoves =>
              have hkind : r.kind = .reposition := not_not.1 fun hkind => hmoves (.inl hkind)
              obtain ⟨hsame, hsameKind⟩ := setMoved_serial_kind r (driveOfRole sv.role)
              have hmoved := h'.setSw (h'.1.update hfind hsame hsameKind)
              obtain ⟨rest, hring⟩ := h'.1.ring_of_reposition hfind hkind
              split
              · exact (hmoved.retireReposition (update_ring_of_find hfind hring _)).answer
              · exact hmoved.answer
    | start src =>
      refine ⟨_, rfl, request fun sv s' h' => ?_⟩
      (repeat' split) <;> first | exact h'.startRun.answer | exact h'.answer
    | abort src =>
      refine ⟨_, rfl, request fun sv s' h' => ?_⟩
      split
      · exact h'.answer
      · exact h'.abortRun.answer
    | backstitch src n =>
      refine ⟨_, rfl, request fun sv s' h' => ?_⟩
      dsimp only
      split
      · exact h'.answer
      · split
        · exact h'.answer
        · split
          · exact h'.answer
          · next e rest hnewest =>
            have hentries : ∀ x ∈ e :: rest, x ∈ s'.gh.history := fun x hx =>
              List.mem_of_mem_drop (hnewest ▸ hx)
            exact (h'.backstitch _ (h'.replay_kinds hentries)).answer
    | _ => cases hc

/-- Settles O12: a step idles, or executes its front command, which keeps the window's order and its serials. -/
theorem windowStaysOrdered : Obligations.WindowStaysOrdered := by
  intro s t hordered hserials hstep
  have h : RecordsSound s := (recordsSound_iff s).2 ⟨hordered, hserials⟩
  rw [← recordsSound_iff]
  unfold step at hstep
  split at hstep
  · cases hstep
    exact h
  · next c rest _ =>
    obtain ⟨u, hu, hkept⟩ := exec_recordsSound c (s := s.setPending rest) h
    rw [hu] at hstep
    cases hstep
    exact hkept

end Sys2Proof.Machine
end

section
/-! SUPPORT. The drives' takes, by the cases of R83, and REPORT MOVED. -/

namespace Sys2Proof.Machine

/-! ### The cases of a take (R83) -/

theorem liesBefore_self (a : Word32) : liesBefore a a = false := by
  simp [liesBefore]

section
variable {w : Window} {d : Drive} {serial : Word32}

theorem takeCase_gone (hold : liesBefore serial w.oldest = true) : w.takeCase d serial = .gone := if_pos hold

theorem takeCase_again {r : Record} (hold : liesBefore serial w.oldest = false)
    (hbefore : liesBefore serial (w.cursor d) = true) (hfind : w.find serial = some r) : w.takeCase d serial = .again r := by
  rw [Window.takeCase, if_neg (by simp [hold]), if_pos hbefore, hfind]

/-- The cursor's serial is not one the drive has taken. -/
theorem not_before_cursor (hcursor : serial = w.cursor d) : ¬ liesBefore serial (w.cursor d) = true := by
  rw [hcursor, liesBefore_self]
  exact Bool.false_ne_true

theorem takeCase_lead (hold : liesBefore serial w.oldest = false) (hcursor : serial = w.cursor d)
    (hlead : w.leadLimit ≤ w.lead d) : w.takeCase d serial = .lead := by
  rw [Window.takeCase, if_neg (by simp [hold]), if_neg (not_before_cursor hcursor), if_pos hcursor, if_pos hlead]

theorem takeCase_notMade (hold : liesBefore serial w.oldest = false) (hcursor : serial = w.cursor d)
    (hlead : w.lead d < w.leadLimit) (hfind : w.find serial = none) : w.takeCase d serial = .notMade := by
  rw [Window.takeCase, if_neg (by simp [hold]), if_neg (not_before_cursor hcursor), if_pos hcursor,
    if_neg (Nat.not_le.2 hlead), hfind]

theorem takeCase_of_served {r : Record} (hold : liesBefore serial w.oldest = false) (hcursor : serial = w.cursor d)
    (hlead : w.lead d < w.leadLimit) (hfind : w.find serial = some r) : w.takeCase d serial = .served r := by
  rw [Window.takeCase, if_neg (by simp [hold]), if_neg (not_before_cursor hcursor), if_pos hcursor,
    if_neg (Nat.not_le.2 hlead), hfind]

theorem takeCase_outOfSequence (hold : liesBefore serial w.oldest = false)
    (hbefore : liesBefore serial (w.cursor d) = false) (hcursor : serial ≠ w.cursor d) :
    w.takeCase d serial = .outOfSequence := by
  rw [Window.takeCase, if_neg (by simp [hold]), if_neg (by simp [hbefore]), if_neg hcursor]

end

/-! ### The two takes -/

/-- The request by which a drive takes a serial. -/
def Drive.takes (d : Drive) (src : NodeId) (serial : Word32) : Instr :=
  match d with
  | .head => .takeHead src serial
  | .feed => .takeFeed src serial

section
variable {d : Drive} {s : State} {sv : Service} {src : NodeId} {serial : Word32}

theorem exec_takes (h : Serving s sv (d.takes src serial)) :
    exec (d.takes src serial) s = .next (take d serial sv s) := by
  cases d <;> exact congrArg Host.Outcome.next (takeRequest_serving h _)

theorem take_standby (hrun : s.rc.state = .standby) : take d serial sv s = answer sv .refusedState [] s := if_pos hrun

theorem take_zero (hrun : s.rc.state ≠ .standby) (hzero : serial = 0) :
    take d serial sv s = answer sv .badParam [] s := by
  rw [take, if_neg hrun, if_pos hzero]

/-- The cases in which a take is not served, for either drive (R83, R84, R87). -/
theorem exec_takes_not_served (h : Serving s sv (d.takes src serial)) :
    (s.rc.state = .standby → exec (d.takes src serial) s = .next (answer sv .refusedState [] s)) ∧
    (s.rc.state ≠ .standby → serial = 0 → exec (d.takes src serial) s = .next (answer sv .badParam [] s)) ∧
    (s.rc.state ≠ .standby → serial ≠ 0 →
      (liesBefore serial s.sw.oldest = true →
        exec (d.takes src serial) s = .next (answer sv .gone (octets32 s.sw.oldest) s)) ∧
      (liesBefore serial s.sw.oldest = false →
        (∀ r, liesBefore serial (s.sw.cursor d) = true → s.sw.find serial = some r →
          exec (d.takes src serial) s = .next (answer sv .okRepeat (r.takeOctets d) s)) ∧
        (serial = s.sw.cursor d →
          (s.sw.leadLimit ≤ s.sw.lead d →
            exec (d.takes src serial) s = .next (answer sv .notReady (1 :: octets32 s.sw.oldest) s)) ∧
          (s.sw.lead d < s.sw.leadLimit → s.sw.find serial = none →
            exec (d.takes src serial) s = .next (answer sv .notReady (2 :: octets32 s.sw.oldest) s))) ∧
        (liesBefore serial (s.sw.cursor d) = false → serial ≠ s.sw.cursor d →
          exec (d.takes src serial) s = .next (answer sv .outOfSequence (octets32 (s.sw.cursor d)) s)))) := by
  rw [exec_takes h]
  refine ⟨fun hrun => by rw [take_standby hrun], fun hrun hzero => by rw [take_zero hrun hzero], fun hrun hgiven => ?_⟩
  rw [take, if_neg hrun, if_neg hgiven]
  refine ⟨fun hold => by rw [takeCase_gone hold], fun hold => ⟨fun r hbefore hfind => ?_, fun hcursor => ⟨fun hlead => ?_,
    fun hlead hfind => ?_⟩, fun hbefore hcursor => ?_⟩⟩
  · rw [takeCase_again hold hbefore hfind]
  · rw [takeCase_lead hold hcursor hlead]
  · rw [takeCase_notMade hold hcursor hlead hfind]
  · rw [takeCase_outOfSequence hold hbefore hcursor]

theorem exec_takes_served {r : Record} (h : Serving s sv (d.takes src r.serial)) (hrun : s.rc.state ≠ .standby)
    (hgiven : r.serial ≠ 0) (hfind : s.sw.find r.serial = some r) (hold : liesBefore r.serial s.sw.oldest = false)
    (hcursor : r.serial = s.sw.cursor d) (hlead : s.sw.lead d < s.sw.leadLimit) :
    exec (d.takes src r.serial) s =
      .next (answer sv .ok ((r.serve s.gh.parked s.wt.zones d).takeOctets d)
        (s.setSw ((s.sw.update r.serial fun _ => r.serve s.gh.parked s.wt.zones d).advanceCursor d))) := by
  rw [exec_takes h, take, if_neg hrun, if_neg hgiven, takeCase_of_served hold hcursor hlead hfind]

end

/-! ### The effective set (R85) -/

theorem skips_iff (zones : List Zone) (kind : Kind) (web : Word32) :
    skips zones kind web = true ↔ (kind = .sew ∨ kind = .tack) ∧ ∃ z ∈ zones, z.holds web = true := by
  simp [skips]

/-- The record as the head drive's take leaves it: a stitch in a splice zone is skipped, of any other the parked groups are left
out. -/
theorem serve_head (r : Record) (parked : Word32) (zones : List Zone) :
    r.serve parked zones .head = { r with
      takenHead := true
      effective := some (if (r.kind = .sew ∨ r.kind = .tack) ∧ ∃ z ∈ zones, z.holds r.web = true then 0
        else r.planned &&& ~~~parked)
      flags := { r.flags with
        skipped := r.flags.skipped ||
          decide ((r.kind = .sew ∨ r.kind = .tack) ∧ ∃ z ∈ zones, z.holds r.web = true) } } := by
  have hskips := skips_iff zones r.kind r.web
  unfold Record.serve Record.fixSet
  by_cases hskip : (r.kind = .sew ∨ r.kind = .tack) ∧ ∃ z ∈ zones, z.holds r.web = true
  · simp only [if_pos hskip, if_pos (hskips.2 hskip), decide_eq_true hskip, Bool.or_true]
  · simp only [if_neg hskip, if_neg (mt hskips.1 hskip), decide_eq_false hskip, Bool.or_false]

/-- Settles O42: the case of R83 is the served one, and the head drive's take fixes the effective set. -/
theorem takeIsServed : Obligations.TakeIsServed := by
  intro s sv src r hrun hgiven hfind hold
  refine ⟨fun h hcursor hlead => ?_, fun h hcursor hlead => ?_⟩
  · refine (exec_takes_served (d := .head) h hrun hgiven hfind hold hcursor hlead).trans ?_
    rw [serve_head]
    rfl
  · exact exec_takes_served (d := .feed) h hrun hgiven hfind hold hcursor hlead

/-- Settles O43, for both drives by the cases that a take of either has in common. -/
theorem takesNotServedChangeNothing : Obligations.TakesNotServedChangeNothing :=
  ⟨fun _ _ _ _ h => exec_takes_not_served (d := .head) h, fun _ _ _ _ h => exec_takes_not_served (d := .feed) h⟩

/-! ### REPORT MOVED (R88) -/

theorem driveOfRole_of_drive {d : Drive} {role : Role} (h : role = if d = .head then .head else .feed) :
    driveOfRole role = d := by
  subst h
  cases d <;> rfl

section
variable {s : State} {sv : Service} {src : NodeId} {serial : Word32}

theorem exec_reportMoved_standby (h : Serving s sv (.reportMoved src serial)) (hrun : s.rc.state = .standby) :
    exec (.reportMoved src serial) s = .next (answer sv .refusedState [] s) :=
  congrArg Host.Outcome.next ((takeRequest_serving h _).trans (if_pos hrun))

theorem exec_reportMoved_zero (h : Serving s sv (.reportMoved src serial)) (hrun : s.rc.state ≠ .standby)
    (hzero : serial = 0) : exec (.reportMoved src serial) s = .next (answer sv .badParam [] s) :=
  congrArg Host.Outcome.next ((takeRequest_serving h _).trans ((if_neg hrun).trans (if_pos hzero)))

theorem exec_reportMoved_outOfSequence (h : Serving s sv (.reportMoved src serial)) (hrun : s.rc.state ≠ .standby)
    (hgiven : serial ≠ 0)
    (hother : ∀ r, s.sw.find serial = some r → r.kind ≠ .reposition ∨ r.takenBy (driveOfRole sv.role) = false) :
    exec (.reportMoved src serial) s =
      .next (answer sv .outOfSequence (octets32 (s.sw.cursor (driveOfRole sv.role))) s) := by
  refine congrArg Host.Outcome.next ((takeRequest_serving h _).trans ((if_neg hrun).trans ((if_neg hgiven).trans ?_)))
  cases hfind : s.sw.find serial with
  | none => rfl
  | some r => exact if_pos (hother r hfind)

/-- A report of a REPOSITION record that the drive has taken sets the drive's flag, and with both flags set the record retires. -/
theorem exec_reportMoved_taken (h : Serving s sv (.reportMoved src serial)) (hrun : s.rc.state ≠ .standby)
    (hgiven : serial ≠ 0) {r r' : Record} (hfind : s.sw.find serial = some r) (hkind : r.kind = .reposition)
    (htaken : r.takenBy (driveOfRole sv.role) = true) (hmoved : r.setMoved (driveOfRole sv.role) = r') :
    exec (.reportMoved src serial) s = .next (
      if r'.movedHead && r'.movedFeed then
        answer sv .ok [1] (retireReposition r' (s.setSw (s.sw.update serial fun _ => r')))
      else answer sv .ok [0] (s.setSw (s.sw.update serial fun _ => r'))) := by
  subst hmoved
  refine congrArg Host.Outcome.next ((takeRequest_serving h _).trans ((if_neg hrun).trans ((if_neg hgiven).trans ?_)))
  dsimp only
  rw [hfind]
  exact if_neg (by simp [hkind, htaken])

end

/-- The other drive's flag decides whether a report is the second one. -/
theorem setMoved_both (r : Record) (d : Drive) :
    ((r.setMoved d).movedHead && (r.setMoved d).movedFeed) = if d = .head then r.movedFeed else r.movedHead := by
  cases d <;> simp [Record.setMoved]

theorem setMoved_eq (r : Record) (d : Drive) :
    r.setMoved d = if d = .head then { r with movedHead := true } else { r with movedFeed := true } := by
  cases d <;> rfl

theorem takenBy_eq (r : Record) (d : Drive) : r.takenBy d = if d = .head then r.takenHead else r.takenFeed := by
  cases d <;> rfl

theorem cursor_eq (w : Window) (d : Drive) : w.cursor d = if d = .head then w.headNext else w.feedNext := by
  cases d <;> rfl

theorem find_oldest {w : Window} {r : Record} {rest : List Record} (hring : w.ring = r :: rest) :
    w.find r.serial = some r := by
  rw [Window.find, hring]
  exact List.find?_cons_of_pos (beq_self_eq_true _)

/-- Once the changed oldest record has left, the rest of the window stands as it stood. -/
theorem remove_update_oldest {w : Window} {r r' : Record} {rest : List Record} (hring : w.ring = r :: rest)
    (hrest : ∀ x ∈ rest, x.serial ≠ r.serial) :
    (w.update r.serial fun _ => r').remove r'.serial = { w with ring := rest } := by
  have hsame : (rest.map fun x => if x.serial == r.serial then r' else x) = rest :=
    (List.map_congr_left fun x hx => if_neg (by simpa using hrest x hx)).trans (List.map_id' rest)
  rw [remove_oldest (update_ring_of_find (find_oldest hring) hring r'), hsame]
  rfl

theorem placesFreed_sw (s : State) : (placesFreed s).sw = s.sw.joinWaiting 16 := settle_sw _

/-- Of the counters of Run Control only that of suspensions can move when places are freed. -/
theorem placesFreed_counters (s : State) :
    ∃ n, (placesFreed s).rc.counters = { s.rc.counters with suspensions := n } := settle_counters _

theorem placesFreed_stitches (s : State) : (placesFreed s).rc.counters.stitches = s.rc.counters.stitches := by
  obtain ⟨n, hn⟩ := placesFreed_counters s
  rw [hn]

/-- Where nothing waits, the window is without the record (R93, R95). -/
theorem retireReposition_sw {s : State} {r : Record} {w : Window} (hremove : s.sw.remove r.serial = w)
    (hwait : w.waiting = []) : (retireReposition r s).sw = w := by
  subst hremove
  exact (placesFreed_sw _).trans (joinWaiting_of_none hwait 16)

/-- Positions move as at any retirement (R93). -/
theorem retireReposition_wt (r : Record) (s : State) : (retireReposition r s).wt = s.wt.retire r := placesFreed_wt _

/-- Nothing is filed, and the barrier comes to stand after the newest entry (R93, R129). -/
theorem retireReposition_gh (r : Record) (s : State) : (retireReposition r s).gh = { s.gh with rewindable := 0 } :=
  placesFreed_gh _

theorem retireReposition_openCopy (r : Record) (s : State) :
    (retireReposition r s).rc.openCopy = some (r.tag, r.copy) := placesFreed_rc_openCopy _

theorem retireReposition_stitches (r : Record) (s : State) :
    (retireReposition r s).rc.counters.stitches = s.rc.counters.stitches := placesFreed_stitches _

/-- The flag changes nothing of the positions that the record's retirement hands on. -/
theorem retire_setMoved (w : Web) (r : Record) (d : Drive) : w.retire (r.setMoved d) = w.retire r := by
  cases d <;> rfl

theorem setMoved_copy (r : Record) (d : Drive) : ((r.setMoved d).tag, (r.setMoved d).copy) = (r.tag, r.copy) := by
  cases d <;> rfl

/-- Settles O44: a report by the cases of R88, and what a REPOSITION record's retirement hands to each block. -/
theorem reportMovedRetiresReposition : Obligations.ReportMovedRetiresReposition := by
  intro s sv src d hrole
  have hd : driveOfRole sv.role = d := driveOfRole_of_drive hrole
  refine ⟨fun r rest hrun hgiven h hring hkind htaken => ?_, fun serial h => ⟨fun hrun => exec_reportMoved_standby h hrun,
    fun hrun hzero => exec_reportMoved_zero h hrun hzero, fun hrun hgiven hother => ?_⟩⟩
  · have htakenBy : r.takenBy (driveOfRole sv.role) = true := by rw [hd, takenBy_eq]; exact htaken
    have hexec := exec_reportMoved_taken h hrun hgiven (find_oldest hring) hkind htakenBy (by rw [hd])
    rw [setMoved_both] at hexec
    refine ⟨fun hother => ⟨_, hexec, ?first⟩, fun hother hwait hrest => ⟨_, hexec, ?second⟩⟩
    case first =>
      rw [hother, setMoved_eq]
      rfl
    case second =>
      rw [if_pos hother]
      have hsw := retireReposition_sw (s := s.setSw (s.sw.update r.serial fun _ => r.setMoved d))
        (w := { s.sw with ring := rest }) (remove_update_oldest hring hrest) hwait
      have hwt := (retireReposition_wt (r.setMoved d) (s.setSw (s.sw.update r.serial fun _ => r.setMoved d))).trans
        (retire_setMoved s.wt r d)
      simp only [answer_sw, answer_wt, answer_gh, answer_queue, answer_sx, answer_rc, answer_lp]
      rw [hsw, hwt, retireReposition_gh, retireReposition_queue,
        retireReposition_sx_checkpoint, retireReposition_stitches, retireReposition_openCopy, setMoved_copy,
        retireReposition_lp_general]
      exact ⟨rfl, rfl, rfl, rfl, rfl, rfl, rfl, rfl, rfl⟩
  · simp only [← takenBy_eq, ← cursor_eq, ← hd] at hother ⊢
    exact exec_reportMoved_outOfSequence h hrun hgiven hother

end Sys2Proof.Machine
end

section
/-! SUPPORT. The retirement of a LAST record: what the completion of its copy hands to the queue, the cut list and the plan line. -/

namespace Sys2Proof.Machine

/-! ### The order that is changed twice (R38, R41) -/

section
variable {f : Order → Order} (hf : ∀ o, (f o).tag = o.tag) (queue : List Order) (tag : Word16)
include hf

theorem findOrder_updateOrder {o : Order} (ho : findOrder queue tag = some o) :
    findOrder (updateOrder queue tag f) tag = some (f o) := by
  have htag : (o.tag == tag) = true := List.find?_some (p := fun x : Order => x.tag == tag) ho
  have hsame : ((fun x : Order => x.tag == tag) ∘ fun x => if x.tag == tag then f x else x) = fun x => x.tag == tag := by
    funext x
    dsimp only [Function.comp]
    split
    · rw [hf]
    · rfl
  rw [findOrder, updateOrder, List.find?_map, hsame]
  exact (congrArg (Option.map _) ho).trans (congrArg some (if_pos htag))

theorem removeOrder_updateOrder : removeOrder (updateOrder queue tag f) tag = removeOrder queue tag := by
  induction queue with
  | nil => rfl
  | cons o rest ih =>
    unfold removeOrder updateOrder at ih ⊢
    by_cases htag : o.tag = tag
    · simpa [htag, hf] using ih
    · simpa [htag] using ih

theorem updateOrder_updateOrder (g : Order → Order) :
    updateOrder (updateOrder queue tag f) tag g = updateOrder queue tag fun o => g (f o) := by
  unfold updateOrder
  rw [List.map_map]
  refine List.map_congr_left fun o _ => ?_
  by_cases htag : o.tag = tag
  · simp [htag, hf]
  · simp [htag]

end

/-! ### The end of a completed copy (R46, R121, R143) -/

/-- The cut list entry of a copy that is complete (R143). -/
def Reservation.entry (res : Reservation) (o : Order) : CutEntry :=
  ⟨res.tag, res.copy, res.cutMark, o.clipped, o.skipped, o.rewinds, o.spliceLate⟩

/-- The PANEL_DONE of a copy that is complete (R121, R178). -/
def completedFrame (tag : Word16) (copy copiesLeft : Nat) (e : CutEntry) : OutFrame :=
  ⟨31#5, .announce, 0x81, panelDoneOctets tag copy copiesLeft (some e), 2, 0, .none⟩

theorem panelDoneOctets_some (tag : Word16) (copy copiesLeft : Nat) (e : CutEntry) :
    panelDoneOctets tag copy copiesLeft (some e) = octets16 tag ++ octet copy ++ [0] ++ octet copiesLeft ++ octets32 e.web ++
      octets16 e.clipped ++ octets16 e.skipped ++ octets16 e.rewinds ++ [boolOctet e.spliceLate] := by
  simp only [panelDoneOctets, List.append_assoc, Option.isSome_some, if_true]

/-- The completion reaches the cut list and the reservations, the note and the count of completed panels, the queue and the general
places, and nothing else. -/
theorem completeCopy_of_some {r : Record} {s : State} {o : Order} {res : Reservation}
    (ho : findOrder s.queue r.tag = some o) (hres : (s.wt.reservations.find? fun x => x.serial == r.serial) = some res) :
    completeCopy r s = (((s.setWt { s.wt with
        reservations := s.wt.reservations.filter fun x => x.serial != res.serial
        cuts := s.wt.cuts ++ [res.entry o] }).setRc { s.rc with
          counters := { s.rc.counters with completed := saturatingSucc s.rc.counters.completed }
          openCopy := none }).setQueue
        (endCopy (fun x => x.endCopy.applyPending) s.queue o)).setLp
      (s.lp.offerAnnouncement (completedFrame r.tag r.copy o.endCopy.copiesLeft (res.entry o))) := by
  rw [completeCopy, ho, hres]
  rfl

theorem placesFreed_completed (s : State) : (placesFreed s).rc.counters.completed = s.rc.counters.completed := by
  obtain ⟨n, hn⟩ := placesFreed_counters s
  rw [hn]

/-- Settles O22, by the completion of the copy on what the retirement has handed over. -/
theorem lastRetirementCompletesCopy : Obligations.LastRetirementCompletesCopy := by
  intro s inactiveUs r rest o res hr hinactive hstate hring hkind hhead hfeed hlast ho hres clipped skipped
  obtain ⟨timer, hexec, -, -⟩ := exec_needleUp_retires hr hinactive hstate hring hkind hhead hfeed
  have htag : ∀ x : Order, (x.accumulate r.flags).tag = x.tag := fun _ => rfl
  have hrtag : o.tag = r.tag := by simpa using List.find?_some ho
  have hserial : res.serial = r.serial := by simpa using List.find?_some hres
  have hcompletes := completeCopy_of_some (r := r) (s := handedOver r (s.withSilence timer))
    (findOrder_updateOrder htag s.queue r.tag ho) hres
  have hretire : retire r (s.withSilence timer) = placesFreed (completeCopy r (handedOver r (s.withSilence timer))) :=
    (retire_eq r _).trans (congrArg placesFreed (if_pos hlast))
  have hlp : (handedOver r (s.withSilence timer)).lp = s.lp := rfl
  rw [hcompletes] at hretire
  rw [hretire] at hexec
  refine ⟨_, hexec, ?cuts, ?reservations, ?note, ?completed, fun hleaves => ?leaves, fun hgoes => ?goesOn, fun hfree => ?announced,
    fun hfull => ?dropped⟩
  case cuts => rw [placesFreed_wt]; rfl
  case reservations => rw [placesFreed_wt, ← hserial]; rfl
  case note => rw [placesFreed_rc_openCopy]; rfl
  case completed => rw [placesFreed_completed]; rfl
  case leaves =>
    rw [placesFreed_queue]
    refine (endCopy_leaves (o := o.accumulate r.flags) hleaves _ _).trans ?_
    rw [htag, hrtag]
    exact removeOrder_updateOrder htag s.queue r.tag
  case goesOn =>
    rw [placesFreed_queue]
    refine (endCopy_goesOn (o := o.accumulate r.flags) hgoes _ _).trans ?_
    rw [htag, hrtag]
    exact updateOrder_updateOrder htag s.queue r.tag _
  case announced =>
    rw [placesFreed_lp_general, placesFreed_lp_counters, setLp_lp, hlp, offerAnnouncement_of_free hfree, completedFrame,
      panelDoneOctets_some]
    exact ⟨rfl, rfl⟩
  case dropped =>
    rw [placesFreed_lp_general, placesFreed_lp_counters, setLp_lp, hlp, offerAnnouncement_of_full hfull]
    exact ⟨rfl, rfl⟩

end Sys2Proof.Machine
end

section
/-! SUPPORT. HOLD and the stop-silence timer by run state: what each operation of Run Control leaves of them, and that every
command keeps them. -/

namespace Sys2Proof.Machine

/-! ### The table, read off Run Control alone -/

/-- The part halts, or has halted: in these states it holds the machine (R99, R106). -/
def RunState.halts : RunState → Bool
  | .halting | .halted => true
  | .standby | .priming | .run => false

/-- The timer runs in HALTING alone; HOLD is driven in HALTING and HALTED, but for the settle of a RESUME, which stands in HALTED
alone (R104, R106, R114); and the drive is seen (R107). -/
def RunControl.Follows (rc : RunControl) (settling : Prop) : Prop :=
  (rc.silence.isSome = true ↔ rc.state = .halting) ∧
    (rc.holdDriven = true ↔ rc.state = .halting ∨ rc.state = .halted ∧ ¬ settling) ∧
    (settling → rc.state = .halted) ∧ (rc.holdDriven = true → rc.holdSeen = true)

theorem runStateTable_iff (s : State) : RunStateTable s ↔ s.rc.Follows (Settling s) := by
  constructor
  · rintro ⟨htimer, hdriven, hhalting, hhalted, hsettling, hseen⟩
    refine ⟨htimer, ⟨fun h => ?_, fun h => ?_⟩, fun h => (hsettling h).1, hseen⟩
    · refine (hdriven h).imp_right fun hstate => ⟨hstate, fun hs => ?_⟩
      simp [(hsettling hs).2] at h
    · rcases h with h | ⟨h, hs⟩
      · exact hhalting h
      · exact (hhalted h).resolve_right hs
  · rintro ⟨htimer, hdriven, hsettling, hseen⟩
    refine ⟨htimer, fun h => (hdriven.1 h).imp_right And.left, fun h => hdriven.2 (.inl h), fun h => ?_, fun h => ?_, hseen⟩
    · by_cases hs : Settling s
      · exact .inr hs
      · exact .inl (hdriven.2 (.inr ⟨h, hs⟩))
    · refine ⟨hsettling h, Bool.eq_false_iff.2 fun hd => ?_⟩
      rcases hdriven.1 hd with hhalting | ⟨-, hs⟩
      · exact absurd ((hsettling h).symm.trans hhalting) nofun
      · exact hs h

/-- Where the request in service stays, so does the settle. -/
theorem settling_congr {s t : State} (h : t.lp.service = s.lp.service) : Settling t ↔ Settling s := by
  simp [Settling, h]

theorem not_settling_of_serving {s : State} {sv : Service} {c : Instr} (h : Serving s sv c) : ¬ Settling s := by
  obtain ⟨-, hsv, -, hphase⟩ := h
  rintro ⟨sv', hsv', hsettle⟩
  rw [hsv] at hsv'
  cases hsv'
  rw [hphase] at hsettle
  cases hsettle

theorem not_settling_of_canHandOn {s : State} (h : s.canHandOn = true) : ¬ Settling s := by
  simp only [State.canHandOn, Bool.and_eq_true, Option.isNone_iff_eq_none] at h
  simp [Settling, h.1.1]

/-- A request that waits for a read is in no settle. -/
theorem not_settling_of_waiting {s : State} {p : ServicePhase} {sv : Service} (h : s.waitingService p = some sv)
    (hp : p ≠ .settle) : ¬ Settling s := by
  obtain ⟨hsv, hphase⟩ := waitingService_eq h
  rintro ⟨sv', hsv', hsettle⟩
  rw [hsv] at hsv'
  cases hsv'
  exact hp (hphase.symm.trans hsettle)

theorem settling_of_waiting {s : State} {sv : Service} (h : s.waitingService .settle = some sv) : Settling s :=
  ⟨sv, waitingService_eq h⟩

@[simp] theorem not_settling_answer (sv : Service) (st : Status) (ps : List Byte) (s : State) :
    ¬ Settling (answer sv st ps s) := by simp [Settling, answer_lp]
@[simp] theorem not_settling_answerThen (sv : Service) (st : Status) (ps : List Byte) (a : AfterFrame) (s : State) :
    ¬ Settling (answerThen sv st ps a s) := by simp [Settling, answerThen_lp]
@[simp] theorem settling_serviceWaits (s : State) (sv : Service) (p : ServicePhase) :
    Settling (s.serviceWaits sv p) ↔ p = .settle := by simp [Settling, serviceWaits_lp]
@[simp] theorem settling_portNext (s : State) : Settling (portNext s) ↔ Settling s := by simp [Settling]

/-- What is handed on is in no settle. -/
theorem not_settling_handOn (r : RequestFrame) (s : State) : ¬ Settling (handOn r s) := by
  unfold handOn
  dsimp only
  (repeat' split) <;> simp [Settling, LinePort.answerTo]

/-! ### What the operations of Run Control leave -/

section
variable {p : Prop}

/-- Beside the table's own fields nothing of Run Control counts; and between the states in which the machine is not held the
run state moves freely. -/
theorem RunControl.Follows.moved {rc rc' : RunControl} (h : rc.Follows p) (hsilence : rc'.silence = rc.silence)
    (hdriven : rc'.holdDriven = rc.holdDriven) (hseen : rc'.holdSeen = rc.holdSeen)
    (hstate : rc'.state = rc.state ∨ rc.state.halts = false ∧ rc'.state.halts = false) : rc'.Follows p := by
  unfold RunControl.Follows at h ⊢
  rw [hsilence, hdriven, hseen]
  rcases hstate with hsame | ⟨hfrom, hto⟩
  · rw [hsame]
    exact h
  · cases hs : rc.state <;> cases hs' : rc'.state <;> simp_all [RunState.halts]

theorem RunControl.Follows.same {rc rc' : RunControl} (h : rc.Follows p) (hsilence : rc'.silence = rc.silence)
    (hdriven : rc'.holdDriven = rc.holdDriven) (hseen : rc'.holdSeen = rc.holdSeen) (hstate : rc'.state = rc.state) :
    rc'.Follows p :=
  h.moved hsilence hdriven hseen (.inl hstate)

@[simp] theorem follows_portNext (s : State) : (portNext s).rc.Follows p ↔ s.rc.Follows p := by
  simp [RunControl.Follows]
@[simp] theorem follows_acceptOp (sv : Service) (work : OpWork) (point : OpPoint) (s : State) :
    (acceptOp sv work point s).rc.Follows p ↔ s.rc.Follows p := by simp [acceptOp]
@[simp] theorem not_settling_acceptOp (sv : Service) (work : OpWork) (point : OpPoint) (s : State) :
    ¬ Settling (acceptOp sv work point s) := by simp [acceptOp]

theorem not_settling_take (d : Drive) (serial : Word32) (sv : Service) (s : State) : ¬ Settling (take d serial sv s) := by
  unfold take; (repeat' split) <;> simp
@[simp] theorem not_settling_storeSetting (sv : Service) (code : Byte) (width v : Nat) (s : State) :
    ¬ Settling (storeSetting sv code width v s) := not_settling_answerThen _ _ _ _ _

/-- Settling moves the run state only between states in which the machine is not held (R109, R110). -/
theorem RunControl.Follows.settle {s : State} (h : s.rc.Follows p) : (settle s).rc.Follows p := by
  refine h.moved (settle_rc_silence s) (settle_rc_holdDriven s) (settle_rc_holdSeen s) ?_
  rcases settle_state s with hsame | ⟨hprimes, hruns⟩ | ⟨hprimes | hruns, hends⟩
  · exact .inl hsame
  · exact .inr ⟨by rw [hprimes]; rfl, by rw [hruns]; rfl⟩
  · exact .inr ⟨by rw [hprimes]; rfl, by rw [hends]; rfl⟩
  · exact .inr ⟨by rw [hruns]; rfl, by rw [hends]; rfl⟩

/-- No settle stands while the run goes on. -/
theorem RunControl.Follows.not_settling {rc : RunControl} (h : rc.Follows p) (hstate : rc.state ≠ .halted) : ¬ p :=
  fun hp => hstate (h.2.2.1 hp)

/-- The entry into HALTING drives HOLD and starts the timer (R99). -/
theorem RunControl.Follows.enterHalting {s : State} (h : s.rc.Follows p) (hstate : s.rc.state.halts = false) (c : Cause) :
    (enterHalting c s).rc.Follows p := by
  have hp : ¬ p := h.not_settling fun hhalted => by rw [hhalted] at hstate; cases hstate
  exact ⟨iff_of_true rfl rfl, iff_of_true rfl (.inl rfl), fun h => absurd h hp, fun _ => rfl⟩

theorem RunControl.Follows.raiseCause {s : State} (h : s.rc.Follows p) (c : Cause) : (raiseCause c s).rc.Follows p := by
  unfold Machine.raiseCause
  split
  · next hstate => exact h.enterHalting (by rw [hstate]; rfl) c
  · next hstate => exact h.enterHalting (by rw [hstate]; rfl) c
  · exact h
  · exact h
  · exact h

theorem RunControl.Follows.placesFreed {s : State} (h : s.rc.Follows p) : (placesFreed s).rc.Follows p :=
  RunControl.Follows.settle (s := s.setSw _) h

theorem retirement_hold (r : Record) (s : State) :
    (retirement r s).rc.silence = s.rc.silence ∧ (retirement r s).rc.holdDriven = s.rc.holdDriven ∧
      (retirement r s).rc.holdSeen = s.rc.holdSeen := by
  unfold retirement; split <;> simp [handedOver]

/-- A retirement reaches counters and note, and what follows at once (R91). -/
theorem RunControl.Follows.retire {s : State} (h : s.rc.Follows p) (r : Record) : (retire r s).rc.Follows p := by
  obtain ⟨hsilence, hdriven, hseen⟩ := retirement_hold r s
  rw [retire_settles]
  exact RunControl.Follows.settle (s := (retirement r s).setSw _) (h.same hsilence hdriven hseen (retirement_state r s))

theorem RunControl.Follows.retireReposition {s : State} (h : s.rc.Follows p) (r : Record) :
    (retireReposition r s).rc.Follows p := by
  refine RunControl.Follows.placesFreed ?_
  exact h

theorem RunControl.Follows.holdSeen {s : State} (h : s.rc.Follows p) (asserted : Bool) :
    (Machine.holdSeen asserted s).rc.Follows p := by
  unfold Machine.holdSeen
  split
  · exact h
  · next hfree =>
    have hdriven : s.rc.holdDriven = false := by simp_all
    have hseen : ({ s.rc with holdSeen := asserted } : RunControl).Follows p :=
      ⟨h.1, h.2.1, h.2.2.1, fun hd => absurd hd (by simp [hdriven])⟩
    dsimp only
    split
    · exact RunControl.Follows.raiseCause (s := s.setRc _) hseen _
    · exact hseen

/-- HALTING ends with the timer stopped and HOLD driven on (R104, R105). -/
theorem RunControl.Follows.enterHalted {s : State} (h : s.rc.Follows p) (hstate : s.rc.state = .halting)
    (reason : StateReason) : (enterHalted reason s).rc.Follows p := by
  have hp : ¬ p := h.not_settling (by simp [hstate])
  have hdriven : s.rc.holdDriven = true := h.2.1.2 (.inl hstate)
  exact ⟨iff_of_false nofun nofun, iff_of_true hdriven (.inr ⟨rfl, hp⟩), fun _ => rfl, h.2.2.2⟩

theorem RunControl.Follows.needleUp {s : State} (h : s.rc.Follows p) : (needleUp s).rc.Follows p := by
  unfold Machine.needleUp
  split
  · exact h
  · exact h.raiseCause _
  · exact h.raiseCause _
  · unfold needleUpRun
    split
    · exact h.retire _
    · exact RunControl.Follows.raiseCause (s := s.countRun _) h _
    · exact h.raiseCause _
  · next hhalting =>
    have htimer : ({ s.rc with silence := some s.st.working.stopSilence } : RunControl).Follows p :=
      ⟨iff_of_true rfl hhalting, h.2⟩
    unfold needleUpHalting
    dsimp only
    split
    · exact RunControl.Follows.retire (s := s.setRc _) htimer _
    · exact htimer
    · exact htimer

/-- A START finds the machine at rest in STANDBY, and PRIMING is entered (R109). -/
theorem RunControl.Follows.startRun {s : State} (h : s.rc.Follows p) (hstate : s.rc.state = .standby) :
    (startRun s).rc.Follows p := by
  refine RunControl.Follows.settle (h.moved ?_ ?_ ?_ (.inr ⟨by rw [hstate]; rfl, rfl⟩)) <;> simp

theorem RunControl.Follows.endRequested {s : State} (h : s.rc.Follows p) : (Machine.endRequested s).rc.Follows p := by
  unfold Machine.endRequested
  refine RunControl.Follows.settle ?_
  dsimp only
  split <;> exact h

/-- RESUME lets HOLD go for its settle (R114). -/
theorem RunControl.Follows.released {rc : RunControl} (h : rc.Follows False) (hstate : rc.state = .halted) :
    rc.releaseHold.Follows True :=
  ⟨h.1, iff_of_false nofun (by simp [RunControl.releaseHold, hstate]), fun _ => hstate, nofun⟩

/-- HOLD is driven again at the end of a settle (R114). -/
theorem RunControl.Follows.driven {rc : RunControl} (h : rc.Follows p) (hstate : rc.state = .halted) :
    rc.driveHold.Follows False :=
  ⟨h.1, iff_of_true rfl (.inr ⟨hstate, not_false⟩), nofun, fun _ => rfl⟩

/-- The run goes on from a settle, with HOLD released (R114). -/
theorem RunControl.Follows.resumed {rc : RunControl} (h : rc.Follows True) {state : RunState} (hstate : state.halts = false) :
    ({ rc with state := state } : RunControl).Follows False := by
  have hhalted : rc.state = .halted := h.2.2.1 trivial
  have hsilence : rc.silence.isSome ≠ true := fun hs => absurd (hhalted.symm.trans (h.1.1 hs)) nofun
  have hdriven : rc.holdDriven ≠ true := fun hd => by simpa [hhalted] using h.2.1.1 hd
  refine ⟨iff_of_false hsilence ?_, iff_of_false hdriven ?_, nofun, h.2.2.2⟩ <;>
    cases state <;> simp_all [RunState.halts]

theorem RunControl.Follows.resumeSettled {s : State} (h : s.rc.Follows True) (sv : Service) :
    (resumeSettled sv s).rc.Follows False := by
  have hstate : s.rc.state = .halted := h.2.2.1 trivial
  unfold Machine.resumeSettled
  split
  · exact RunControl.Follows.raiseCause (s := s.setRc _) (h.driven hstate) _
  · split
    · exact h.driven hstate
    · refine RunControl.Follows.settle (h.resumed ?_)
      split <;> rfl

/-- Given up from HALTED, the run leaves HOLD released in STANDBY (R116). -/
theorem RunControl.Follows.abortRun {s : State} (h : s.rc.Follows False) (hstate : s.rc.state = .halted) :
    (abortRun s).rc.Follows False := by
  have hsilence : s.rc.silence.isSome ≠ true := fun hs => absurd (hstate.symm.trans (h.1.1 hs)) nofun
  rw [abortRun_rc]
  exact ⟨iff_of_false hsilence nofun, iff_of_false nofun nofun, nofun, nofun⟩

theorem RunControl.Follows.spliceOverflow {s : State} (h : s.rc.Follows p) : (spliceOverflow s).rc.Follows p := by
  unfold Machine.spliceOverflow
  split
  · exact h.raiseCause _
  · exact h.raiseCause _
  · exact h
  · exact h
  · exact h

@[simp] theorem orderJoined_rc (o : Order) (s : State) : (orderJoined o s).rc = s.rc := by
  unfold orderJoined; split <;> simp
@[simp] theorem leaveOrder_rc (o : Option Order) (s : State) : (leaveOrder o s).rc = s.rc := by
  unfold leaveOrder; (repeat' split) <;> simp
@[simp] theorem take_rc (d : Drive) (serial : Word32) (sv : Service) (s : State) : (take d serial sv s).rc = s.rc := by
  unfold take; (repeat' split) <;> simp
@[simp] theorem storeSetting_rc (sv : Service) (code : Byte) (width v : Nat) (s : State) :
    (storeSetting sv code width v s).rc = s.rc := by
  unfold storeSetting; dsimp only; rw [answerThen_rc]; split <;> rfl

theorem RunControl.Follows.cancelRemove {s : State} (h : s.rc.Follows p) (o : Order) : (cancelRemove o s).rc.Follows p := by
  unfold Machine.cancelRemove
  refine RunControl.Follows.settle ?_
  split <;> simpa using h

theorem RunControl.Follows.backstitch {s : State} (h : s.rc.Follows p) (reposition : Record) (replay : List Record) :
    (backstitch reposition replay s).rc.Follows p := by
  refine RunControl.Follows.settle (s := (rollback (discard s)).setSw _) ?_
  simpa using h

end

/-! ### The request in service through the events -/

@[simp] theorem completeCopy_lp_service (r : Record) (s : State) : (completeCopy r s).lp.service = s.lp.service := by
  unfold completeCopy; split <;> simp
@[simp] theorem retire_lp_service (r : Record) (s : State) : (retire r s).lp.service = s.lp.service := by
  rw [retire_eq, placesFreed_lp_service]
  unfold retirement; split <;> simp [handedOver]
@[simp] theorem needleUp_lp_service (s : State) : (needleUp s).lp.service = s.lp.service := by
  unfold needleUp needleUpRun needleUpHalting; dsimp only; (repeat' split) <;> simp
@[simp] theorem holdSeen_lp_service (asserted : Bool) (s : State) : (holdSeen asserted s).lp.service = s.lp.service := by
  unfold holdSeen; dsimp only; (repeat' split) <;> simp

theorem receiveSeen_service (lp : LinePort) (cells : List LineCell) : (lp.receiveSeen cells).service = lp.service := by
  unfold LinePort.receiveSeen; (repeat' split) <;> rfl
@[simp] theorem receive_service (lp : LinePort) (w : Wave) : (lp.receive w).service = lp.service := by
  unfold LinePort.receive; split
  · rfl
  · exact receiveSeen_service ..
theorem releasePlace_service (lp : LinePort) (x : Sending) : (lp.releasePlace x).service = lp.service := by
  unfold LinePort.releasePlace; (repeat' split) <;> rfl
theorem abortPlace_service (lp : LinePort) (x : Sending) : (lp.abortPlace x).service = lp.service := by
  unfold LinePort.abortPlace; dsimp only; (repeat' split) <;> first | rfl | exact releasePlace_service ..
@[simp] theorem endAttempt_service (lp : LinePort) (w : Wave) : (lp.endAttempt w).service = lp.service := by
  unfold LinePort.endAttempt
  split
  · rfl
  · dsimp only
    split
    · exact releasePlace_service ..
    · exact receiveSeen_service ..
    · exact abortPlace_service ..
    · exact abortPlace_service ..
    · exact abortPlace_service ..
@[simp] theorem startFrame_service (lp : LinePort) : lp.startFrame.service = lp.service := by
  unfold LinePort.startFrame; (repeat' split) <;> rfl
@[simp] theorem idleFor_service (lp : LinePort) (recessiveNs : Nat) : (lp.idleFor recessiveNs).service = lp.service := by
  unfold LinePort.idleFor; dsimp only; (repeat' split) <;> rfl

/-! ### Finished reads -/

@[simp] theorem expanderRead_run (slot index : Nat) (live : Bool) (s : State) :
    (expanderRead slot index live s).rc = s.rc ∧ (expanderRead slot index live s).lp = s.lp := by
  unfold expanderRead; split <;> simp
@[simp] theorem closingRead_run (s : State) : (closingRead s).rc = s.rc ∧ (closingRead s).lp = s.lp := by
  unfold closingRead; dsimp only; (repeat' split) <;> exact ⟨rfl, rfl⟩
@[simp] theorem setupLoad_lp_service (s : State) : (setupLoad s).lp.service = s.lp.service := by
  unfold setupLoad followSettings; dsimp only; split <;> rfl
@[simp] theorem classified_run (found : List SlotEntry) (e : SlotEntry) (s : State) :
    (classified found e s).rc = s.rc ∧ (classified found e s).lp.service = s.lp.service := by
  unfold classified reachReady; dsimp only; split <;> exact ⟨rfl, rfl⟩
@[simp] theorem scanNext_run (r : ScanRead) (s : State) : (scanNext r s).rc = s.rc ∧ (scanNext r s).lp = s.lp := ⟨rfl, rfl⟩
@[simp] theorem scanWalk_run (found : List SlotEntry) (slot : Nat) (r : WalkResult) (s : State) :
    (scanWalk found slot r s).rc = s.rc ∧ (scanWalk found slot r s).lp.service = s.lp.service := by
  unfold scanWalk; split <;> simp
@[simp] theorem scanRead_run (found : List SlotEntry) (r : ScanRead) (s : State) :
    (scanRead found r s).rc = s.rc ∧ (scanRead found r s).lp.service = s.lp.service := by
  unfold scanRead; dsimp only; (repeat' split) <;> simp

/-- The last tests of a COMMIT PAGE end in an answer. -/
theorem RunControl.Follows.commitDecision {s : State} (h : s.rc.Follows False) (sv : Service) (slot page : Nat)
    (written : Bool) :
    (commitDecision sv slot page written s).rc.Follows False ∧ ¬ Settling (commitDecision sv slot page written s) := by
  unfold Machine.commitDecision
  (repeat' split) <;> simp [h]

/-- With no settle on, the table is Run Control's. -/
theorem RunStateTable.of_follows {s : State} (h : s.rc.Follows False ∧ ¬ Settling s) : RunStateTable s := by
  rw [runStateTable_iff, eq_false h.2]
  exact h.1

theorem RunStateTable.follows {s : State} (h : RunStateTable s) (hs : ¬ Settling s) : s.rc.Follows False := by
  rw [runStateTable_iff, eq_false hs] at h
  exact h

/-- An event follows the table where it leaves the request in service. -/
theorem RunStateTable.event {s t : State} (h : RunStateTable s)
    (hrc : ∀ {p : Prop}, s.rc.Follows p → t.rc.Follows p) (hservice : t.lp.service = s.lp.service) : RunStateTable t := by
  rw [runStateTable_iff, settling_congr hservice]
  exact hrc ((runStateTable_iff s).1 h)

theorem RunStateTable.deliver {s : State} (h : RunStateTable s) (r : ReadFor) : RunStateTable (deliver r s) := by
  cases r with
  | expander | closing => exact h.event (by simp [Machine.deliver]) (by simp [Machine.deliver])
  | written slot page =>
    simp only [Machine.deliver, writtenRead]
    split
    · next sv hsv => exact .of_follows ((h.follows (not_settling_of_waiting hsv nofun)).commitDecision ..)
    · exact h
  | library slot page offset count =>
    simp only [Machine.deliver, libraryRead]
    split
    · next sv hsv => exact .of_follows ⟨h.follows (not_settling_of_waiting hsv nofun), by simp⟩
    · exact h
  | reload =>
    simp only [Machine.deliver, reloadRead]
    split
    · exact h
    · next sv hsv =>
      have hrc := h.follows (not_settling_of_waiting hsv nofun)
      split
      · exact .of_follows ⟨hrc, by simp⟩
      · exact .of_follows ⟨hrc, by simp⟩
  | scan r =>
    simp only [Machine.deliver]
    split
    · exact h.event (by simp) (by simp)
    · exact h

/-! ### Every command -/

theorem runStateTable_held (pins : Pins) (array : List Host.Cell) (pending : List Instr) :
    RunStateTable (State.held pins array pending) :=
  ⟨iff_of_false nofun nofun, nofun, nofun, nofun, fun ⟨_, hsv, _⟩ => (nomatch hsv), nofun⟩

theorem runStateTable_startUp (array : List Host.Cell) (pending : List Instr) :
    RunStateTable (State.startUp array pending) :=
  (runStateTable_held ⟨true, false⟩ array pending).event id rfl

theorem runStateTable_partReset (s : State) : RunStateTable s.partReset :=
  (runStateTable_held ⟨true, false⟩ [] []).event id rfl

/-- A request in its owner's hands is in no settle; what its step leaves follows the table by itself, with the answer or a read
to wait for, or as a RESUME leaves it. -/
theorem RunStateTable.takeRequest {c : Instr} {own : Service → State → State} {s : State} (h : RunStateTable s)
    (hown : ∀ sv s', s'.rc.Follows False → RunStateTable (own sv s')) : RunStateTable (takeRequest c own s) := by
  refine takeRequest_keeps h (fun r _ hc => ?_) fun sv s' h' hserving =>
    hown sv s' (h'.follows (not_settling_of_serving hserving))
  exact .of_follows ⟨by simpa using h.follows (not_settling_of_canHandOn hc), not_settling_handOn r s⟩

theorem exec_runStateTable (c : Instr) {s : State} (h : RunStateTable s) : Leaves (exec c s) RunStateTable := by
  have line : ∀ lp : LinePort, lp.service = s.lp.service → RunStateTable (s.setLp lp) := fun _ hlp => h.event id hlp
  have array : ∀ l : Library, RunStateTable (portNext (s.setPl l)) := fun _ => h.event (by simp) (by simp)
  cases c with
  | powerOn => exact ⟨_, rfl, by split; exacts [runStateTable_held .., runStateTable_startUp ..]⟩
  | powerOff | resetnAssert => exact ⟨_, rfl, runStateTable_held ..⟩
  | resetnRelease => exact ⟨_, rfl, by split; exacts [runStateTable_startUp .., h.event id rfl]⟩
  | resetPartApply =>
    exact ⟨_, rfl, whenReady_keeps h fun _ => by split; exacts [(runStateTable_partReset s).event id rfl, h]⟩
  | needleUp us =>
    exact ⟨_, rfl, whenReady_keeps h fun _ => by
      split; exacts [h.event RunControl.Follows.needleUp (needleUp_lp_service s), h]⟩
  | holdSeenChange asserted us =>
    exact ⟨_, rfl, whenReady_keeps h fun _ => by
      split; exacts [h.event (·.holdSeen asserted) (holdSeen_lp_service asserted s), h]⟩
  | stopSilenceExpiry =>
    refine ⟨_, rfl, whenReady_keeps h fun _ => ?_⟩
    split
    · next hends =>
      have hhalting : s.rc.state = .halting := by simp_all
      exact h.event (·.enterHalted hhalting _) rfl
    · exact h
  | resumeSettleEnd =>
    refine ⟨_, rfl, whenReady_keeps h fun _ => ?_⟩
    split
    · next sv hsv =>
      have hrc : s.rc.Follows True := by
        rw [runStateTable_iff, eq_true (settling_of_waiting hsv)] at h
        exact h
      exact .of_follows ⟨hrc.resumeSettled sv, by unfold resumeSettled; (repeat' split) <;> simp⟩
    · exact h
  | expansionEvent =>
    refine ⟨_, rfl, whenReady_keeps h fun _ => ?_⟩
    split
    · split
      · exact h.event (fun hrc => RunControl.Follows.settle (s := appendRecord ..) hrc) (by simp)
      · exact h
    · exact h
  | programStepComplete | eraseComplete | boundExpiry | progressIntervalEnd =>
    refine ⟨_, rfl, whenPowered_keeps h fun _ => ?_⟩
    (repeat' split) <;> first | exact array _ | exact h
  | readComplete =>
    refine ⟨_, rfl, whenPowered_keeps h fun _ => ?_⟩
    split
    · exact h
    · next r _ =>
      have hfree : RunStateTable (s.setPort { s.pl.port with inFlight := none }) := h.event id rfl
      exact (hfree.deliver r).event RunControl.Follows.settle (by simp)
  | inboundFrame w | frameNotForPart w => exact ⟨_, rfl, whenReady_keeps h fun _ => line _ (by simp)⟩
  | notAStartMark m => exact ⟨_, rfl, whenReady_keeps h fun _ => by split; exacts [line _ rfl, h]⟩
  | lineIdle ns => exact ⟨_, rfl, whenReady_keeps h fun _ => line _ (by simp)⟩
  | frameStart => exact ⟨_, rfl, whenReady_keeps h fun _ => line _ (by simp)⟩
  | frameDelivered w | arbitrationLost w | errorAbort w => exact ⟨_, rfl, whenReady_keeps h fun _ => line _ (by simp)⟩
  | frameHandOn =>
    refine ⟨_, rfl, whenReady_keeps h fun _ => ?_⟩
    split
    · exact h
    · split
      · next hc =>
        exact .of_follows ⟨by simpa using h.follows (not_settling_of_canHandOn hc), not_settling_handOn _ _⟩
      · exact h
  | resume src =>
    refine ⟨_, rfl, h.takeRequest fun sv s' h' => ?_⟩
    split
    · exact .of_follows ⟨h', by simp⟩
    · next hhalted =>
      split
      · exact .of_follows ⟨h', by simp⟩
      · split
        · exact .of_follows ⟨h', by simp⟩
        · rw [runStateTable_iff, eq_true ((settling_serviceWaits ..).2 rfl)]
          exact h'.released (not_not.1 hhalted)
  | start src =>
    refine ⟨_, rfl, h.takeRequest fun sv s' h' => ?_⟩
    split
    · exact .of_follows ⟨h', by simp⟩
    · next hstandby =>
      have hstart := h'.startRun (not_not.1 hstandby)
      (repeat' split) <;> first | exact .of_follows ⟨h', by simp⟩ | exact .of_follows ⟨hstart, by simp⟩
  | stop src =>
    refine ⟨_, rfl, h.takeRequest fun sv s' h' => .of_follows ?_⟩
    have hstop := h'.raiseCause .supervisorStop
    split <;> simp [h', hstop]
  | endRun src =>
    refine ⟨_, rfl, h.takeRequest fun sv s' h' => .of_follows ?_⟩
    split <;> simp [h', h'.endRequested]
  | abort src =>
    refine ⟨_, rfl, h.takeRequest fun sv s' h' => .of_follows ?_⟩
    split
    · simp [h']
    · next hhalted => simp [h'.abortRun (not_not.1 hhalted)]
  | reportStopped src =>
    refine ⟨_, rfl, h.takeRequest fun sv s' h' => .of_follows ?_⟩
    split
    · next hhalting => simp [h'.enterHalted hhalting]
    all_goals simp [h']
  | clearCauses | clearCounters =>
    refine ⟨_, rfl, h.takeRequest fun sv s' h' => .of_follows ⟨?_, by simp⟩⟩
    exact h'
  | reportBreak src groups =>
    refine ⟨_, rfl, h.takeRequest fun sv s' h' => .of_follows ?_⟩
    dsimp only
    have hbroken : ∀ gh, (raiseCause .threadBreak (s'.setGh gh)).rc.Follows False := fun gh =>
      RunControl.Follows.raiseCause (s := s'.setGh gh) h' _
    (repeat' split) <;> simp [h', hbroken]
  | reportSplice src web =>
    refine ⟨_, rfl, h.takeRequest fun sv s' h' => .of_follows ?_⟩
    have hlate : ∀ wt, (markLate (raiseCause .spliceLate (s'.setWt wt))).rc.Follows False := fun wt => by
      rw [(markLate_keeps _).1]
      exact RunControl.Follows.raiseCause (s := s'.setWt wt) h' _
    dsimp only
    (repeat' split) <;> simp [h', hlate, h'.spliceOverflow]
  | reportMoved src serial =>
    refine ⟨_, rfl, h.takeRequest fun sv s' h' => .of_follows ?_⟩
    have hretired : ∀ sw r, (retireReposition r (s'.setSw sw)).rc.Follows False := fun sw r =>
      RunControl.Follows.retireReposition (s := s'.setSw sw) h' r
    dsimp only
    (repeat' split) <;> simp [h', hretired]
  | enqueue =>
    refine ⟨_, rfl, h.takeRequest fun sv s' h' => .of_follows ?_⟩
    have hjoined : ∀ o queue, (settle (orderJoined o (s'.setQueue queue))).rc.Follows False := fun o queue =>
      RunControl.Follows.settle (by simpa using h')
    (repeat' split) <;> simp [h', hjoined]
  | cancel src tag =>
    refine ⟨_, rfl, h.takeRequest fun sv s' h' => .of_follows ?_⟩
    (repeat' split) <;> simp [h', h'.cancelRemove]
  | cutDone src tag copy =>
    refine ⟨_, rfl, h.takeRequest fun sv s' h' => .of_follows ?_⟩
    have hsettled : ∀ wt, (settle (s'.setWt wt)).rc.Follows False := fun wt =>
      RunControl.Follows.settle (s := s'.setWt wt) h'
    (repeat' split) <;> simp [h', hsettled]
  | backstitch src n =>
    refine ⟨_, rfl, h.takeRequest fun sv s' h' => .of_follows ?_⟩
    dsimp only
    (repeat' split) <;> simp [h', h'.backstitch]
  | takeHead src serial | takeFeed src serial =>
    exact ⟨_, rfl, h.takeRequest fun sv s' h' => .of_follows ⟨by simpa using h', not_settling_take _ _ _ _⟩⟩
  | commitPage src slot page =>
    refine ⟨_, rfl, h.takeRequest fun sv s' h' => .of_follows ?_⟩
    (repeat' split) <;> simp [h', h'.commitDecision]
  | setSetting src code value =>
    refine ⟨_, rfl, h.takeRequest fun sv s' h' => .of_follows ?_⟩
    dsimp only
    (repeat' split) <;> simp [h']
  | resetPart src =>
    refine ⟨_, rfl, h.takeRequest fun sv s' h' => .of_follows ?_⟩
    (repeat' split) <;> simp [h', Settling, answerThen_lp, answer_lp]
  | setRole =>
    refine ⟨_, rfl, h.takeRequest fun sv s' h' => .of_follows ?_⟩
    dsimp only
    (repeat' split) <;> simp [h']
  | loadBuffer | clearBuffer | eraseSlot | closeSlot | readLibrary | readOutcome | readQueue | readOrder
  | readStatus | readCounters | reportMended | park | unpark | readHistory | cutQuery
  | writeSetup | reloadSetup | readSetting | readTable =>
    refine ⟨_, rfl, h.takeRequest fun sv s' h' => .of_follows ?_⟩
    (repeat' split) <;> simp [h']

/-- Settles O11: a step idles, or executes its front command, which follows the table. -/
theorem runStateTableIsKept : Obligations.RunStateTableIsKept := by
  intro s t h hstep
  unfold step at hstep
  split at hstep
  · cases hstep
    exact h
  · next c rest _ =>
    have hpending : RunStateTable (s.setPending rest) := h.event id rfl
    obtain ⟨u, hu, hkept⟩ := exec_runStateTable c hpending
    rw [hu] at hstep
    cases hstep
    exact hkept

end Sys2Proof.Machine
end

section
/-! SUPPORT. Needle-ups that retire nothing, HOLD, the end of HALTING, and the requests STOP, END RUN and CLEAR CAUSES: what each
comes to in each run state. -/

namespace Sys2Proof.Machine

/-! ### The causes (R99) -/

section
variable (c : Cause) {s : State}

/-- In PRIMING and RUN a cause halts the run. -/
theorem raiseCause_of_sewing (h : s.rc.state = .priming ∨ s.rc.state = .run) : raiseCause c s = enterHalting c s := by
  unfold raiseCause
  rcases h with h | h <;> rw [h]

/-- In HALTED it joins the set. -/
theorem raiseCause_of_halted (h : s.rc.state = .halted) : raiseCause c s = s.setRc (s.rc.addCause c) := by
  unfold raiseCause
  rw [h]

variable (s)

/-- The entry into HALTING: Run Control as R99 gives it, and of the other blocks the Line Port alone. -/
theorem enterHalting_rc : (enterHalting c s).rc = { s.rc with
    state := .halting
    causes := s.rc.causes ||| c.bit
    holdDriven := true
    holdSeen := true
    silence := some s.st.working.stopSilence } := rfl

theorem enterHalting_blocks : enterHalting c s = (s.setRc (enterHalting c s).rc).setLp (enterHalting c s).lp := rfl

/-- STATE says HALTING with the cause raised (R120). -/
theorem enterHalting_statePlace : (enterHalting c s).lp.statePlace.map OutFrame.params =
    some (3 :: octets16 (s.rc.causes ||| c.bit) ++ [boolOctet s.rc.endRequested] ++ octets32 s.sw.oldest ++
      [3, BitVec.ofNat 8 c.index]) := rfl

end

/-! ### The needle-up (R100 to R103) -/

/-- An active edge after less than 2 ms of inactive input is none (R100). -/
theorem exec_needleUp_early (s : State) {inactiveUs : Nat} (h : inactiveUs < 2000) :
    exec (.needleUp inactiveUs) s = .next s := by
  have hedge : ¬ Config.nupInactiveUs ≤ inactiveUs := Nat.not_le.2 h
  show Host.Outcome.next (whenReady s _) = _
  unfold whenReady
  simp [hedge]

theorem exec_needleUp {s : State} {inactiveUs : Nat} (hr : s.ready = true) (h : 2000 ≤ inactiveUs) :
    exec (.needleUp inactiveUs) s = .next (needleUp s) := by
  show Host.Outcome.next (whenReady s _) = _
  rw [whenReady_of hr]
  exact congrArg _ (if_pos h)

section
variable {s : State}

theorem needleUp_standby (h : s.rc.state = .standby) :
    needleUp s = s.countRun fun c => { c with idleCycles := saturatingSucc c.idleCycles } := by
  unfold needleUp
  rw [h]

/-- While the thread is not being laid a needle-up is motion (R101). -/
theorem needleUp_motion (h : s.rc.state = .priming ∨ s.rc.state = .halted) : needleUp s = raiseCause .motion s := by
  unfold needleUp
  rcases h with h | h <;> rw [h]

theorem needleUp_run (h : s.rc.state = .run) : needleUp s = needleUpRun s := by
  unfold needleUp
  rw [h]

theorem needleUp_halting (h : s.rc.state = .halting) : needleUp s = needleUpHalting s := by
  unfold needleUp
  rw [h]

end

theorem finding_of_empty {w : Window} (h : w.ring = []) : w.finding = .empty := by
  rw [Window.finding, h]

/-- A REPOSITION record, or one that a drive has not taken, cannot retire at a needle-up (R90). -/
theorem finding_of_notTaken {w : Window} {r : Record} {rest : List Record} (h : w.ring = r :: rest)
    (hr : r.kind = .reposition ∨ r.takenHead = false ∨ r.takenFeed = false) : w.finding = .notTaken := by
  rw [Window.finding, h]
  refine if_neg fun ⟨hkind, hhead, hfeed⟩ => ?_
  rcases hr with hr | hr | hr
  · exact hkind hr
  · simp [hr] at hhead
  · simp [hr] at hfeed

/-- Settles O20, by the run state. -/
theorem needleUpOutsideSewing : Obligations.NeedleUpOutsideSewing := by
  refine fun s inactiveUs => ⟨exec_needleUp_early s, fun hr hedge hstate => ?standby, fun hr hedge hstate => ?priming,
    fun hr hedge hstate => ?halted⟩
  case standby => rw [exec_needleUp hr hedge, needleUp_standby hstate]; rfl
  case priming =>
    refine ⟨enterHalting .motion s, ?_, enterHalting_rc .., enterHalting_blocks .., enterHalting_statePlace ..⟩
    rw [exec_needleUp hr hedge, needleUp_motion (.inl hstate), raiseCause_of_sewing _ (.inl hstate)]
  case halted =>
    rw [exec_needleUp hr hedge, needleUp_motion (.inr hstate), raiseCause_of_halted _ hstate]
    rfl

/-- In RUN a needle-up that finds the oldest record not taken counts a late take and halts (R102). -/
theorem needleUpRun_notTaken {s : State} (hrun : s.rc.state = .run) (hfinds : s.sw.finding = .notTaken) :
    needleUpRun s = enterHalting .lateTake (s.countRun fun c => { c with lateTakes := saturatingSucc c.lateTakes }) := by
  rw [needleUpRun, hfinds]
  exact raiseCause_of_sewing _ (.inr hrun)

/-- One that finds the window empty halts for want of records, or of places in the cut list (R102). -/
theorem needleUpRun_empty {s : State} (hrun : s.rc.state = .run) (hfinds : s.sw.finding = .empty) :
    needleUpRun s = enterHalting (if s.sx.state = .holding .cutReserveFull then .cutBacklog else .starved) s := by
  rw [needleUpRun, hfinds]
  exact raiseCause_of_sewing _ (.inr hrun)

/-- Nothing to retire in HALTING: the machine coasts (R103). -/
theorem needleUpHalting_coasts {s : State} (hfinds : s.sw.finding = .notTaken ∨ s.sw.finding = .empty) :
    needleUpHalting s = s.setRc { s.rc with
      silence := some s.st.working.stopSilence
      counters := { s.rc.counters with coasts := saturatingSucc s.rc.counters.coasts } } := by
  unfold needleUpHalting
  dsimp only
  rw [setRc_sw]
  rcases hfinds with h | h <;> rw [h] <;> rfl

/-- Settles O23, by what the needle-up finds. -/
theorem needleUpFindingNothingHalts : Obligations.NeedleUpFindingNothingHalts := by
  refine ⟨fun s inactiveUs hr hedge hrun => ⟨fun r rest hring hlate => ?late, fun hring => ?empty⟩,
    fun s inactiveUs hr hedge hhalting hnone => ?coasts⟩
  case late =>
    have hhalts := needleUpRun_notTaken hrun (finding_of_notTaken hring hlate)
    exact ⟨_, by rw [exec_needleUp hr hedge, needleUp_run hrun, hhalts], enterHalting_rc .., rfl⟩
  case empty =>
    have hhalts := needleUpRun_empty hrun (finding_of_empty hring)
    refine ⟨_, by rw [exec_needleUp hr hedge, needleUp_run hrun, hhalts], ?_, enterHalting_blocks ..⟩
    rw [enterHalting_rc]
    split <;> rfl
  case coasts =>
    have hfinds : s.sw.finding = .notTaken ∨ s.sw.finding = .empty := by
      cases hring : s.sw.ring with
      | nil => exact .inr (finding_of_empty hring)
      | cons r rest => exact .inl (finding_of_notTaken hring (hnone r rest hring))
    rw [exec_needleUp hr hedge, needleUp_halting hhalting, needleUpHalting_coasts hfinds]

/-! ### HOLD (R107) -/

theorem exec_holdSeenChange {s : State} {stableUs : Nat} (hr : s.ready = true) (h : 10 ≤ stableUs) (asserted : Bool) :
    exec (.holdSeenChange asserted stableUs) s = .next (holdSeen asserted s) := by
  show Host.Outcome.next (whenReady s _) = _
  rw [whenReady_of hr]
  exact congrArg _ (if_pos h)

section
variable {s : State}

/-- While the part drives HOLD its level is known (log 16). -/
theorem holdSeen_of_driven (h : s.rc.holdDriven = true) (asserted : Bool) : holdSeen asserted s = s :=
  if_pos (by simp [h])

/-- In PRIMING and RUN, HOLD pulled by another halts the run. -/
theorem holdSeen_of_sewing (hstate : s.rc.state = .priming ∨ s.rc.state = .run) (hdriven : s.rc.holdDriven = false)
    (hseen : s.rc.holdSeen = false) :
    holdSeen true s = enterHalting .holdExternal (s.setRc { s.rc with holdSeen := true }) := by
  unfold holdSeen
  rw [if_neg (by simp [hdriven, hseen])]
  exact (if_pos ⟨rfl, hstate⟩).trans (raiseCause_of_sewing _ hstate)

/-- In STANDBY the seen level alone follows. -/
theorem holdSeen_of_standby (hstate : s.rc.state = .standby) (hdriven : s.rc.holdDriven = false) (asserted : Bool) :
    holdSeen asserted s = s.setRc { s.rc with holdSeen := asserted } := by
  unfold holdSeen
  by_cases hsame : s.rc.holdSeen = asserted
  · rw [if_pos (by simp [hsame]), ← hsame]
    rfl
  · rw [if_neg (by simp [hdriven, hsame])]
    exact if_neg (by simp [hstate])

end

/-- Settles O24, by the run state. -/
theorem holdSeenAssertedHalts : Obligations.HoldSeenAssertedHalts := by
  refine fun s stableUs hr hstable => ⟨fun hstate hdriven hseen => ?sewing, fun hstate hdriven asserted => ?standby,
    fun hdriven asserted => ?driven⟩
  case sewing =>
    have hhalts := holdSeen_of_sewing hstate hdriven hseen
    exact ⟨_, by rw [exec_holdSeenChange hr hstable, hhalts], enterHalting_rc .., rfl⟩
  case standby => rw [exec_holdSeenChange hr hstable, holdSeen_of_standby hstate hdriven]
  case driven => rw [exec_holdSeenChange hr hstable, holdSeen_of_driven hdriven]

/-! ### Coming to rest (R104, R105) -/

theorem exec_stopSilenceExpiry {s : State} (hr : s.ready = true) (hstate : s.rc.state = .halting)
    (htimer : s.rc.silence.isSome = true) : exec .stopSilenceExpiry s = .next (enterHalted .silence s) := by
  show Host.Outcome.next (whenReady s _) = _
  rw [whenReady_of hr]
  exact congrArg _ (if_pos (by simp [hstate, htimer]))

/-- HALTED: the timer has stopped, and STATE says so with its reason (R104, R105, R120). -/
theorem enterHalted_spec (reason : StateReason) (s : State) :
    (enterHalted reason s).rc = { s.rc with state := .halted, silence := none } ∧
      (enterHalted reason s).lp.general = s.lp.general ∧
      (enterHalted reason s).lp.statePlace.map OutFrame.params =
        some (4 :: octets16 s.rc.causes ++ [boolOctet s.rc.endRequested] ++ octets32 s.sw.oldest ++
          [reason.code, reason.raised]) := ⟨rfl, rfl, rfl⟩

/-- Settles O25: the timer's expiry, and REPORT STOPPED by the run state. -/
theorem haltingEndsInHalted : Obligations.HaltingEndsInHalted := by
  refine ⟨fun s hr hstate htimer => ?expiry, fun s sv src h => ⟨fun hstate => ?halting, fun hstate => ?halted,
    fun hstate => ?elsewhere⟩⟩
  case expiry =>
    obtain ⟨hrc, -, hplace⟩ := enterHalted_spec .silence s
    exact ⟨_, exec_stopSilenceExpiry hr hstate htimer, hrc, rfl, hplace⟩
  case halting =>
    obtain ⟨hrc, hgeneral, hplace⟩ := enterHalted_spec .stopped s
    refine ⟨answer sv .ok [] (enterHalted .stopped s), next_of_serving h ?_, hrc, rfl, ?_, hplace⟩
    · rw [hstate]
    · rw [answer_lp, answer_lp, hgeneral]
  case halted => exact next_of_serving h (by rw [hstate])
  case elsewhere => exact next_of_serving h (by rcases hstate with hs | hs | hs <;> rw [hs])

/-! ### STOP and END RUN (R111, R112) -/

/-- Settles O46, by the run state. -/
theorem stopHaltsAtOnce : Obligations.StopHaltsAtOnce := by
  refine fun s sv src h => ⟨fun hstate => ?sewing, fun hstate => ?halts, fun hstate => ?standby⟩
  case sewing =>
    refine ⟨answer sv .ok [] (enterHalting .supervisorStop s), next_of_serving h ?_, enterHalting_rc .., rfl, rfl,
      enterHalting_statePlace ..⟩
    rw [← raiseCause_of_sewing _ hstate]
    rcases hstate with hs | hs <;> rw [hs]
  case halts => exact next_of_serving h (by rcases hstate with hs | hs <;> rw [hs])
  case standby => exact next_of_serving h (by rw [hstate])

/-- The flag is set; what follows at once in the expander leaves the other blocks (R74, R112). -/
theorem endRequested_spec (s : State) :
    (endRequested s).rc.endRequested = true ∧ (endRequested s).rc.causes = s.rc.causes ∧
      (endRequested s).queue = s.queue ∧ (endRequested s).wt = s.wt ∧ (endRequested s).st = s.st ∧
      (endRequested s).lp.general = s.lp.general := by
  unfold endRequested
  dsimp only
  split <;> simp

/-- Settles O47. -/
theorem endRunSetsFlag : Obligations.EndRunSetsFlag := by
  refine fun s sv src h => ⟨fun hstate => ?_, fun hstate => next_of_serving h (if_pos hstate)⟩
  obtain ⟨hflag, hcauses, hqueue, hwt, hst, hgeneral⟩ := endRequested_spec s
  obtain ⟨hsw, hgh⟩ := endRequested_records s
  refine ⟨answer sv .ok [] (endRequested s), next_of_serving h (if_neg hstate), hflag, hcauses, hqueue, hsw, hgh, hwt, hst, ?_⟩
  rw [answer_lp, answer_lp, hgeneral]

/-! ### CLEAR CAUSES (R113) -/

/-- Bits 0 to 8 of a cause set are read (R177). -/
theorem causeMask_bit {i : Nat} (h : i < 16) : causeMask.getLsbD i = decide (i ≤ 8) := by
  revert i
  decide

theorem clearedCauses_bit (causes named : Word16) (broken : Word32) {i : Nat} (h : i < 16) :
    (clearedCauses causes named broken).getLsbD i =
      (causes.getLsbD i && !(named.getLsbD i && (decide (i ≠ 0) || decide (broken = 0)))) := by
  have hthread : Cause.threadBreak.bit.getLsbD i = decide (i = 0) := by
    simp [Cause.bit, Cause.index, BitVec.getLsbD_twoPow, eq_comm]
  unfold clearedCauses
  rw [BitVec.getLsbD_and, BitVec.getLsbD_not, decide_eq_true h, Bool.true_and]
  split
  · next hmended => simp [hmended]
  · next hbroken =>
    rw [BitVec.getLsbD_and, BitVec.getLsbD_not, decide_eq_true h, Bool.true_and, hthread, decide_eq_false hbroken]
    simp

/-- Settles O50, bit by bit. -/
theorem clearCausesRemovesNamed : Obligations.ClearCausesRemovesNamed := by
  refine fun s sv src named h => ⟨_, next_of_serving h rfl, fun i hi => ?_⟩
  rw [clearedCauses_bit _ _ _ hi, BitVec.getLsbD_and, causeMask_bit hi]

end Sys2Proof.Machine
end

section
/-! SUPPORT. START and RESUME: their tests, the copy the expander takes up, and what follows at once when a run begins or
goes on. -/

namespace Sys2Proof.Machine

/-! ### What follows at once in Run Control (R109, R110) -/

/-- STATE on entering a run state (R120). -/
theorem enterRunState_statePlace (state : RunState) (reason : StateReason) (s : State) :
    (enterRunState state reason s).lp.statePlace.map OutFrame.params =
      some (state.code :: octets16 s.rc.causes ++ [boolOctet s.rc.endRequested] ++ octets32 s.sw.oldest ++
        [reason.code, reason.raised]) := rfl

section
variable {s : State}

theorem readyState_goesOn (closing : Bool) (s : State) : (readyState closing s).goesOn = true := by
  unfold readyState; (repeat' split) <;> rfl

/-- Before its copy ends the expander does not come to hold for want of an order. -/
theorem sxSettle_goesOn (n : Nat) (hx : s.sx.state.goesOn = true) (hplan : ∀ c, s.plan ≠ .ended c) :
    (sxSettle n s).sx.state.goesOn = true := by
  cases n with
  | zero => exact hx
  | succ n =>
    cases hp : s.plan with
    | need i => rw [sxSettle_need n hx hp, askSegment_sx]; rfl
    | make m first last closing => rw [sxSettle_make n hx hp]; exact readyState_goesOn ..
    | ended c => exact absurd hp (hplan c)
    | stuck => rw [sxSettle_stuck _ hp]; exact hx

theorem runDone_of_goesOn (hx : s.sx.state.goesOn = true) : s.runDone = false := by
  cases hstate : s.sx.state with
  | holding why => cases why <;> simp_all [State.runDone, ExpanderState.goesOn]
  | _ => simp [State.runDone, hstate]

theorem runDone_of_window (hring : s.sw.ring ≠ []) : s.runDone = false := by simp [State.runDone, hring]

theorem primed_of_empty (hring : s.sw.ring = []) (hdepth : 1 ≤ s.st.working.primeDepth) : s.primed = false := by
  simp [State.primed, hring]
  omega

/-- With fewer records than the prime depth an expander that goes on expanding keeps PRIMING. -/
theorem primed_of_expanding (hx : s.sx.state = .expanding) (hshort : s.sw.ring.length < s.st.working.primeDepth) :
    s.primed = false := by
  simp [State.primed, hx]
  omega

/-- Where no test of Run Control passes, its state and the Line Port stay. -/
theorem settle_untested (hprimed : (sxSettle 4 s).primed = false) (hdone : (sxSettle 4 s).runDone = false) :
    (settle s).rc.state = s.rc.state ∧ (settle s).lp = s.lp := by
  have htests : rcTests (sxSettle 4 s) = sxSettle 4 s := by simp [rcTests, hprimed, hdone]
  rw [settle, portNext_rc_state, portNext_lp, htests, sxSettle_rc, sxSettle_lp]
  exact ⟨rfl, rfl⟩

/-- The expander has no order to go on with, or was asked to end. -/
def ExpanderState.ends : ExpanderState → Bool
  | .holding .queueEmpty | .holding .endRequested => true
  | _ => false

theorem sxSettle_of_ends (hx : s.sx.state.ends = true) (n : Nat) : sxSettle n s = s := by
  refine sxSettle_rests n ?_
  cases hstate : s.sx.state with
  | holding why => cases why <;> simp_all [ExpanderState.goesOn, ExpanderState.ends]
  | _ => simp_all [ExpanderState.ends]

/-- With some records in the window and no more to come the run begins (R109). -/
theorem settle_primes (hstate : s.rc.state = .priming) (hx : s.sx.state.ends = true) (hring : s.sw.ring ≠ []) :
    (settle s).rc.state = .run ∧ (settle s).lp = (enterRunState .run .primed s).lp := by
  have hprimed : s.primed = true := by
    cases hs : s.sx.state with
    | holding why => cases why <;> simp_all [State.primed, ExpanderState.ends]
    | _ => simp_all [ExpanderState.ends]
  have hgoes : (enterRunState .run .primed s).runDone = false := runDone_of_window hring
  have htests : rcTests s = enterRunState .run .primed s := by simp [rcTests, hprimed, hgoes]
  rw [settle, sxSettle_of_ends hx, htests, portNext_rc_state, portNext_lp]
  exact ⟨rfl, rfl⟩

/-- With none the run is complete at once (R110). -/
theorem settle_ends (hstate : s.rc.state = .priming) (hx : s.sx.state.ends = true) (hring : s.sw.ring = [])
    (hdepth : 1 ≤ s.st.working.primeDepth) :
    (settle s).rc.state = .standby ∧ (settle s).sx.state = .idle ∧
      (settle s).lp = (enterRunState .standby .runComplete s).lp := by
  have hdone : s.runDone = true := by
    cases hs : s.sx.state with
    | holding why => cases why <;> simp_all [State.runDone, ExpanderState.ends]
    | _ => simp_all [ExpanderState.ends]
  have htests : rcTests s = enterRunState .standby .runComplete (s.setSx { s.sx with state := .idle }) := by
    simp [rcTests, primed_of_empty hring hdepth, hdone]
  rw [settle, sxSettle_of_ends hx, htests, portNext_rc_state, portNext_sx, portNext_lp]
  exact ⟨rfl, rfl, rfl⟩

end

/-! ### RESUME (R114) -/

theorem reposition_of_none {w : Window} (h : ∀ r ∈ w.ring, r.kind ≠ .reposition) : w.reposition = none := by
  rw [Window.reposition, List.find?_eq_none]
  simpa using h

theorem reposition_of_head {w : Window} {r : Record} {rest : List Record} (h : w.ring = r :: rest)
    (hkind : r.kind = .reposition) : w.reposition = some r := by
  rw [Window.reposition, h]
  exact List.find?_cons_of_pos (by simp [hkind])

theorem exec_resumeSettleEnd {s : State} {sv : Service} (hr : s.ready = true) (hsv : s.lp.service = some sv)
    (hphase : sv.phase = .settle) : exec .resumeSettleEnd s = .next (resumeSettled sv s) := by
  show Host.Outcome.next (whenReady s _) = _
  rw [whenReady_of hr, waitingService_of hsv hphase]

section
variable {s : State} {sv : Service}

/-- HOLD is held by another: it is driven again, with HOLD_EXTERNAL. -/
theorem resumeSettled_held (hseen : s.rc.holdSeen = true) (hstate : s.rc.state = .halted) :
    resumeSettled sv s = answer sv .held [] (s.setRc (s.rc.driveHold.addCause .holdExternal)) := by
  unfold resumeSettled
  rw [if_pos hseen, raiseCause_of_halted]
  · rfl
  · exact hstate

theorem resumeSettled_pending (hseen : s.rc.holdSeen = false) (hcauses : s.rc.causes ≠ 0) :
    resumeSettled sv s = answer sv .causesPending (octets16 s.rc.causes) (s.setRc s.rc.driveHold) := by
  unfold resumeSettled
  rw [if_neg (by simp [hseen]), if_pos hcauses]

/-- The run goes on in RUN with the prime depth in the window. -/
theorem resumeSettled_run (hseen : s.rc.holdSeen = false) (hcauses : s.rc.causes = 0)
    (hdepth : s.st.working.primeDepth ≤ s.sw.ring.length) :
    resumeSettled sv s = answer sv .ok [2] (settle (enterRunState .run .resume s)) := by
  unfold resumeSettled
  rw [if_neg (by simp [hseen]), if_neg (not_not.2 hcauses), if_pos hdepth]
  rfl

/-- With fewer it goes on in PRIMING. -/
theorem resumeSettled_priming (hseen : s.rc.holdSeen = false) (hcauses : s.rc.causes = 0)
    (hshort : s.sw.ring.length < s.st.working.primeDepth) :
    resumeSettled sv s = answer sv .ok [1] (settle (enterRunState .priming .resume s)) := by
  unfold resumeSettled
  rw [if_neg (by simp [hseen]), if_neg (not_not.2 hcauses), if_neg (Nat.not_le.2 hshort)]
  rfl

end

/-- What a run that goes on leaves as it was, whatever follows at once, with the answer. -/
theorem resumed_keeps (s : State) (sv : Service) (params : List Byte) (state : RunState) :
    let t := answer sv .ok params (settle (enterRunState state .resume s))
    t.rc.holdDriven = s.rc.holdDriven ∧ t.sw = s.sw ∧ t.queue = s.queue ∧
      t.lp.general = (answer sv .ok params s).lp.general := by
  refine ⟨by simp, by simp, by simp, ?_⟩
  rw [answer_lp, answer_lp, settle_lp_general]
  rfl

/-- Settles O48: the tests of RESUME, and the end of its settle by what stands then. -/
theorem resumeTakesSettle : Obligations.ResumeTakesSettle := by
  refine ⟨fun s sv src h => ⟨fun hstate hcauses hnone => ?released, fun hstate hcauses => ?pending,
    fun hstate hcauses r rest hring hkind => ?reposition, fun hstate => next_of_serving h (if_pos hstate)⟩,
    fun s sv hr hsv hphase hstate => ?settled⟩
  case released =>
    refine next_of_serving h ?_
    rw [if_neg (not_not.2 hstate), if_neg (not_not.2 hcauses), reposition_of_none hnone]
    rfl
  case pending => exact next_of_serving h (by rw [if_neg (not_not.2 hstate), if_pos hcauses])
  case reposition =>
    refine next_of_serving h ?_
    rw [if_neg (not_not.2 hstate), if_neg (not_not.2 hcauses), reposition_of_head hring hkind]
  case settled =>
    rw [exec_resumeSettleEnd hr hsv hphase]
    refine ⟨fun hseen => ?held, fun hseen hcauses => ?caused, fun hseen hcauses hring hdepth => ?run,
      fun hseen hcauses hshort => ⟨fun hx hneed => ?priming, fun hx => ?ends⟩⟩
    case held => rw [resumeSettled_held hseen hstate]; rfl
    case caused => rw [resumeSettled_pending hseen hcauses]; rfl
    case run =>
      obtain ⟨hdriven, hsw, hqueue, hgeneral⟩ := resumed_keeps s sv [2] .run
      obtain ⟨hruns, hlp⟩ := settle_untested (s := enterRunState .run .resume s) (by simp [State.primed])
        (runDone_of_window (by simpa using hring))
      rw [resumeSettled_run hseen hcauses hdepth]
      refine ⟨_, rfl, hruns, hdriven, hsw, hqueue, hgeneral, ?_⟩
      rw [answer_lp, hlp, enterRunState_statePlace, hcauses]
      rfl
    case priming =>
      obtain ⟨i, hneed⟩ := hneed
      obtain ⟨hdriven, hsw, hqueue, hgeneral⟩ := resumed_keeps s sv [1] .priming
      have hneeds : (enterRunState .priming .resume s).plan = .need i :=
        (plan_congr (s := s) rfl rfl rfl rfl rfl).trans hneed
      have hexpands : (sxSettle 4 (enterRunState .priming .resume s)).sx.state = .expanding := by
        rw [sxSettle_need 3 (by rw [enterRunState_sx, hx]; rfl) hneeds, askSegment_sx]
        rfl
      obtain ⟨hprimes, hlp⟩ := settle_untested (s := enterRunState .priming .resume s)
        (primed_of_expanding hexpands (by simpa using hshort)) (runDone_of_goesOn (by rw [hexpands]; rfl))
      rw [resumeSettled_priming hseen hcauses hshort]
      refine ⟨_, rfl, hprimes, hdriven, hsw, hqueue, hgeneral, ?_⟩
      rw [answer_lp, hlp, enterRunState_statePlace, hcauses]
      rfl
    case ends =>
      have hends : (enterRunState .priming .resume s).sx.state.ends = true := by
        rw [enterRunState_sx]
        rcases hx with hx | hx <;> rw [hx] <;> rfl
      obtain ⟨hdriven, hsw, hqueue, hgeneral⟩ := resumed_keeps s sv [1] .priming
      rw [resumeSettled_priming hseen hcauses hshort]
      refine ⟨_, rfl, hdriven, hsw, hqueue, hgeneral, fun hring => ?_, fun hring => ?_⟩
      · obtain ⟨hruns, hlp⟩ := settle_primes (s := enterRunState .priming .resume s) rfl hends hring
        refine ⟨hruns, ?_⟩
        rw [answer_lp, hlp, enterRunState_statePlace]
        show some (_ :: octets16 s.rc.causes ++ _ ++ _ ++ _) = _
        rw [hcauses]
        rfl
      · obtain ⟨hstands, hidle, hlp⟩ := settle_ends (s := enterRunState .priming .resume s) rfl hends hring
          (Nat.lt_of_le_of_lt (Nat.zero_le _) hshort)
        refine ⟨hstands, hidle, ?_⟩
        rw [answer_lp, hlp, enterRunState_statePlace]
        show some (_ :: octets16 s.rc.causes ++ _ ++ _ ++ _) = _
        rw [hcauses]
        rfl

/-! ### The copy that START takes up (R67, R76) -/

theorem advanceFrom_of_plan_ended {e : CopyEnv} {c d : Context} {hand : List (Nat × Segment)}
    (h : e.plan c hand = .ended d) : advanceFrom e c hand = .ended d := by
  unfold CopyEnv.plan at h
  split at h
  · cases h
  · next hended => cases h; exact hended
  · cases h
  · dsimp only at h
    split at h <;> cases h

/-- With no seam to tie off, the body's end leads to the run-out, which has a step where it has a length (R70, R71). -/
theorem advance_endTack_runsOut {e : CopyEnv} {last c : Context} (n : Nat) (ht : c.tack = none) (hphase : c.phase = .endTack)
    (hseam : c.seam = false) (hlength : (e.order.length : Int) - c.panelY + e.order.gap ≠ 0) :
    advance e last (n + 2) c [] = .ready (c.startRunOut e) [] := by
  have hsteps : (c.startRunOut e).step < (c.startRunOut e).steps := Nat.pos_of_ne_zero (jumpSteps_ne_zero (.inr hlength))
  rw [advance_endTack (n + 1) ht hphase, if_neg (by simp [hseam]), advance_runOut (c := c.startRunOut e) n ht rfl, if_pos hsteps]

/-- A copy of a panel of some length makes a record, or reads its first segment: the run-out alone is as long as the panel. -/
theorem plan_beginCopy_not_ended (e : CopyEnv) (c : Context) (copy : Nat) (hlength : 0 < e.order.length) (d : Context) :
    e.plan (c.beginCopy e copy) [] ≠ .ended d := by
  intro h
  have hended : advance e (c.beginCopy e copy) 12 (c.beginCopy e copy) [] = .ended d := advanceFrom_of_plan_ended h
  rw [advance_leadIn 11 rfl rfl] at hended
  split at hended
  · cases hended
  · by_cases hfits : RepeatFits e (c.beginCopy e copy)
    · rw [startRepeat_fits hfits, advance_body_nil 10 rfl rfl] at hended
      cases hended
    · have hout : (e.order.length : Int) - 0 + e.order.gap ≠ 0 := by omega
      rw [startRepeat_not hfits, advance_endTack_runsOut 9 rfl rfl rfl hout] at hended
      cases hended

/-- The context of a copy begun afresh from the retired positions (R67, R76). -/
def State.freshCopy (s : State) (e : CopyEnv) (copy : Nat) : Context :=
  (s.sx.context.fresh s.wt.lateral s.wt.web).beginCopy e copy

theorem takeUp_of_env {s : State} {o : Order} {e : CopyEnv} (he : s.copyEnv o = some e) (copy : Nat) :
    takeUp o copy s = s.setSx { s.sx with context := s.sx.context.beginCopy e copy, state := .expanding, hand := [] } := by
  rw [takeUp, he]

/-- The expander before START takes an order up: nothing in hand, the context set afresh from the retired positions (R76). -/
def State.restarted (s : State) : State :=
  (dropReads s).setSx { (dropReads s).sx with context := s.sx.context.fresh s.wt.lateral s.wt.web }

theorem startExpander_of_head {s : State} {o : Order} {rest : List Order} {e : CopyEnv} (hq : s.queue = o :: rest)
    (he : s.copyEnv o = some e) :
    startExpander s = (dropReads s).setSx
      ⟨s.freshCopy e o.currentCopy, .expanding, [], some (s.freshCopy e o.currentCopy)⟩ := by
  have htakes : startExpander s = (takeUp o o.currentCopy s.restarted).setSx
      { (takeUp o o.currentCopy s.restarted).sx with
        checkpoint := some (takeUp o o.currentCopy s.restarted).sx.context } := by
    unfold startExpander
    dsimp only
    rw [setSx_queue, dropReads_queue, hq]
    rfl
  rw [htakes, takeUp_of_env (s := s.restarted) he]
  rfl

/-- The plan of a copy whose order stands in the queue with its slot CLOSED. -/
theorem plan_of_copy {s : State} {tag : Word16} {o : Order} {e : CopyEnv} (hphase : s.sx.context.phase ≠ .done)
    (htag : s.sx.context.tag = some tag) (ho : findOrder s.queue tag = some o) (he : s.copyEnv o = some e) :
    s.plan = e.plan s.sx.context s.sx.hand := by
  unfold State.plan
  rw [if_neg hphase, htag]
  dsimp only
  rw [ho, Option.bind_some, he]

/-! ### START (R108, R109) -/

/-- The part as START leaves it before the expander takes the head order up: the flag cleared, the lead limit loaded, both cursors
at the counter, the barrier behind the newest entry (R109). -/
def State.startPrepared (s : State) : State :=
  ((s.setRc { s.rc with endRequested := false }).setSw
    { s.sw with leadLimit := s.st.working.leadLimit, headNext := s.sw.counter, feedNext := s.sw.counter }).setGh
    { s.gh with rewindable := 0 }

theorem startRun_eq (s : State) :
    startRun s = settle (enterRunState .priming .start (startExpander s.startPrepared)) := rfl

/-- Of the blocks the window, the barrier and the expander move alone. -/
theorem startRun_blocks (s : State) :
    (startRun s).rc.endRequested = false ∧ (startRun s).sw = s.startPrepared.sw ∧ (startRun s).gh = s.startPrepared.gh ∧
      (startRun s).wt = s.wt ∧ (startRun s).queue = s.queue ∧ (startRun s).st = s.st ∧
      (startRun s).lp.general = s.lp.general := by
  rw [startRun_eq]
  simp [State.startPrepared]

section
variable {s : State} {o : Order} {rest : List Order} {info : SlotInfo}

/-- The head order is taken up, PRIMING entered and announced, and no test of Run Control passes yet. -/
theorem startRun_primes (hq : s.queue = o :: rest) (hinfo : tableEntry s.pl.table o.slot = some (.closed info))
    (hring : s.sw.ring = []) (hdepth : 1 ≤ s.st.working.primeDepth) (hlength : 0 < o.length) :
    (startRun s).rc.state = .priming ∧
      (startRun s).sx.checkpoint = some (s.freshCopy ⟨o, info, s.st.working⟩ o.currentCopy) ∧
      (startRun s).lp.statePlace.map OutFrame.params =
        some (1 :: octets16 s.rc.causes ++ [0] ++ octets32 s.sw.counter ++ [1, 0xFF]) := by
  have henv : s.startPrepared.copyEnv o = some ⟨o, info, s.st.working⟩ := by
    show (closedInfo s.pl.table o.slot).map _ = _
    rw [closedInfo_of_closed hinfo]
    rfl
  have htaken := startExpander_of_head (s := s.startPrepared) hq henv
  have hplan : (enterRunState .priming .start (startExpander s.startPrepared)).plan =
      CopyEnv.plan ⟨o, info, s.st.working⟩ (s.freshCopy ⟨o, info, s.st.working⟩ o.currentCopy) [] := by
    have hhead : findOrder s.queue o.tag = some o := by
      rw [hq, findOrder, List.find?_cons_of_pos (by simp)]
    rw [htaken]
    exact plan_of_copy nofun rfl hhead henv
  have hgoes : (sxSettle 4 (enterRunState .priming .start (startExpander s.startPrepared))).sx.state.goesOn = true := by
    refine sxSettle_goesOn 4 (by rw [htaken]; rfl) fun c => ?_
    rw [hplan]
    exact plan_beginCopy_not_ended _ _ _ hlength c
  obtain ⟨hstate, hlp⟩ := settle_untested (s := enterRunState .priming .start (startExpander s.startPrepared))
    (primed_of_empty (by simpa [State.startPrepared] using hring) (by simpa [State.startPrepared] using hdepth))
    (runDone_of_goesOn hgoes)
  have holdest : s.startPrepared.sw.oldest = s.sw.counter := by
    show (s.sw.ring.head?.map Record.serial).getD s.sw.counter = _
    rw [hring]
    rfl
  rw [startRun_eq, settle_sx_checkpoint, hlp, enterRunState_statePlace, startExpander_rc, startExpander_sw, holdest]
  exact ⟨hstate, by rw [htaken]; rfl, rfl⟩

end

theorem tableEntry_of_closedInfo {table : List SlotEntry} {slot : Nat} {info : SlotInfo}
    (h : closedInfo table slot = some info) : tableEntry table slot = some (.closed info) := by
  unfold closedInfo at h
  split at h
  · next hentry => rw [hentry, Option.some.inj h]
  · cases h

theorem firstReverse_of_served {s : State} (h : ReverseFeedServed s) :
    (if s.st.working.yRev = 0 then firstReverse s.queue s.pl.table else none) = none := by
  rcases h with hyRev | hforward
  · exact if_neg hyRev
  · split
    · rw [firstReverse, List.find?_eq_none]
      intro o ho
      cases hinfo : closedInfo s.pl.table o.slot with
      | none => simp
      | some info => simp [hforward o ho info (tableEntry_of_closedInfo hinfo)]
    · rfl

/-- The first order of the queue that needs a reverse feed (R108). -/
theorem firstReverse_of_first {table : List SlotEntry} {before behind : List Order} {o : Order} {info : SlotInfo}
    (hinfo : tableEntry table o.slot = some (.closed info)) (hreverse : info.reverse = true)
    (hbefore : ∀ x ∈ before, ∀ i, tableEntry table x.slot = some (.closed i) → i.reverse = false) :
    firstReverse (before ++ o :: behind) table = some o := by
  have hnone : before.find? (fun x => ((closedInfo table x.slot).map SlotInfo.reverse).getD false) = none := by
    rw [List.find?_eq_none]
    intro x hx
    cases hi : closedInfo table x.slot with
    | none => simp
    | some i => simp [hbefore x hx i (tableEntry_of_closedInfo hi)]
  rw [firstReverse, List.find?_append, hnone, Option.none_or]
  exact List.find?_cons_of_pos (by simp [closedInfo_of_closed hinfo, hreverse])

section
variable {s : State} {sv : Service} {src : NodeId} (h : Serving s sv (.start src)) (hstate : s.rc.state = .standby)
include h hstate

theorem exec_start_empty (hq : s.queue = []) : exec (.start src) s = .next (answer sv .empty [] s) :=
  next_of_serving h (by rw [if_neg (not_not.2 hstate), if_pos hq])

variable (hq : s.queue ≠ [])
include hq

theorem exec_start_broken (hbroken : s.gh.broken ≠ 0) :
    exec (.start src) s = .next (answer sv .brokenGroups (octets32 s.gh.broken) s) :=
  next_of_serving h (by rw [if_neg (not_not.2 hstate), if_neg hq, if_pos hbroken])

variable (hmended : s.gh.broken = 0)
include hmended

theorem exec_start_noDrives
    (hroles : holdsRole s.st.working.roles .head = false ∨ holdsRole s.st.working.roles .feed = false) :
    exec (.start src) s = .next (answer sv .noDrives [] s) := by
  refine next_of_serving h ?_
  rw [if_neg (not_not.2 hstate), if_neg hq, if_neg (not_not.2 hmended), if_pos (by rcases hroles with hr | hr <;> simp [hr])]

variable (hhead : holdsRole s.st.working.roles .head = true) (hfeed : holdsRole s.st.working.roles .feed = true)
include hhead hfeed

theorem exec_start_unfit {o : Order} (hyRev : s.st.working.yRev = 0)
    (hfirst : firstReverse s.queue s.pl.table = some o) :
    exec (.start src) s = .next (answer sv .patternUnfit (octets16 o.tag) s) := by
  refine next_of_serving h ?_
  rw [if_neg (not_not.2 hstate), if_neg hq, if_neg (not_not.2 hmended), if_neg (by simp [hhead, hfeed]), if_pos hyRev,
    hfirst]

/-- Past the test of the patterns the causes and HOLD decide. -/
theorem exec_start_fit (hfit : ReverseFeedServed s) :
    exec (.start src) s = .next
      (if s.rc.causes ≠ 0 then answer sv .causesPending (octets16 s.rc.causes) s
       else if s.rc.holdSeen then answer sv .held [] s
       else answer sv .ok [] (startRun s)) := by
  refine next_of_serving h ?_
  rw [if_neg (not_not.2 hstate), if_neg hq, if_neg (not_not.2 hmended), if_neg (by simp [hhead, hfeed]),
    firstReverse_of_served hfit]

end

/-- Settles O45: the accepted START by its parts, then the tests in their order. -/
theorem startBeginsRun : Obligations.StartBeginsRun := by
  refine ⟨fun s sv src o rest info h hstate hq hmended hhead hfeed hfit hcauses hseen hinfo hring hdepth hlength => ?accepted,
    fun s sv src h => ⟨fun hstate => next_of_serving h (if_pos hstate), fun hstate hq => exec_start_empty h hstate hq,
      fun hstate hq hbroken => exec_start_broken h hstate hq hbroken,
      fun hstate hq hmended hroles => exec_start_noDrives h hstate hq hmended hroles,
      fun hstate hmended hhead hfeed =>
        ⟨fun before o behind info hyRev hq hinfo hreverse hbefore => ?unfit, fun hq hfit =>
          ⟨fun hcauses => ?pending, fun hcauses hseen => ?held⟩⟩⟩⟩
  case accepted =>
    obtain ⟨hflag, hsw, hgh, hwt, hqueue, hst, hgeneral⟩ := startRun_blocks s
    obtain ⟨hprimes, hcheckpoint, hplace⟩ := startRun_primes hq hinfo hring hdepth (by omega)
    refine ⟨answer sv .ok [] (startRun s), ?_, hflag, hsw, hgh, hwt, hqueue, hst,
      ⟨_, hcheckpoint, rfl, rfl, rfl, rfl, rfl, rfl, rfl, rfl, rfl, rfl, rfl, rfl, rfl⟩, hprimes, ?_, ?_⟩
    · rw [exec_start_fit h hstate (by simp [hq]) hmended hhead hfeed hfit, if_neg (not_not.2 hcauses), if_neg (by simp [hseen])]
    · rw [answer_lp, answer_lp, hgeneral]
    · rw [answer_lp, hplace, hcauses]
      rfl
  case unfit =>
    refine exec_start_unfit h hstate (by simp [hq]) hmended hhead hfeed hyRev ?_
    rw [hq]
    exact firstReverse_of_first hinfo hreverse hbefore
  case pending => rw [exec_start_fit h hstate hq hmended hhead hfeed hfit, if_pos hcauses]
  case held => rw [exec_start_fit h hstate hq hmended hhead hfeed hfit, if_neg (not_not.2 hcauses), if_pos hseen]

end Sys2Proof.Machine
end

section
/-! SUPPORT. The requests that read: what each answer carries, and the counters. -/

namespace Sys2Proof.Machine

/-! ### A request that reads is answered, and that is all -/

/-- Where the owner's step only answers, so does the request. -/
theorem answers_of_serving {c : Instr} {s : State} {sv : Service} {own : Service → State → State} (h : Serving s sv c)
    (hown : ∃ status params, own sv s = answer sv status params s) :
    ∃ status params, Host.Outcome.next (takeRequest c own s) =
      (.next (answer sv status params s) : Host.Outcome State Fault Refusal) := by
  obtain ⟨status, params, hanswer⟩ := hown
  exact ⟨status, params, next_of_serving h hanswer⟩

/-- Every branch of the step of a request that reads is an answer. -/
theorem exec_read_answers {s : State} {sv : Service} {src : NodeId} {tag : Word16} {x : Byte} {c : Instr}
    (hc : c ∈ [Instr.readOutcome src, .readQueue src, .readOrder src tag x, .readStatus src x, .readCounters src x,
      .readHistory src x, .cutQuery src, .readSetting src x, .readTable src]) (h : Serving s sv c) :
    ∃ status params, exec c s = .next (answer sv status params s) := by
  simp only [List.mem_cons, List.not_mem_nil, or_false] at hc
  rcases hc with rfl | rfl | rfl | rfl | rfl | rfl | rfl | rfl | rfl <;> refine answers_of_serving h ?_ <;>
    (repeat' split) <;> exact ⟨_, _, rfl⟩

/-! ### READ STATUS (R118) -/

/-- Without an open copy note its octets are 0 (R178). -/
theorem setsOctets_of_none {s : State} (h : s.rc.openCopy = none) :
    setsOctets s = octets32 s.gh.broken ++ octets32 s.gh.parked ++ [0, 0, 0, 0] := by
  rw [setsOctets, h, List.append_assoc]
  rfl

theorem setsOctets_of_some {s : State} {tag : Word16} {copy : Nat} (h : s.rc.openCopy = some (tag, copy)) :
    setsOctets s = octets32 s.gh.broken ++ octets32 s.gh.parked ++ (1 :: octets16 tag ++ octet copy) := by
  rw [setsOctets, h, List.append_assoc]
  rfl

theorem libraryFlagOctet_eq (fail defaults : Bool) :
    libraryFlagOctet fail defaults = BitVec.ofNat 8 (fail.toNat + 2 * defaults.toNat) := by
  cases fail <;> cases defaults <;> rfl

theorem SlotEntry.code_lt (e : SlotEntry) : e.code < 4 := by
  cases e <;> simp [SlotEntry.code]

theorem length_slotStateOctets (table : List SlotEntry) : (slotStateOctets table).length = table.length / 4 := by
  induction table using slotStateOctets.induct with
  | case1 a b c d rest ih => simp only [slotStateOctets, List.length_cons, ih]; omega
  | case2 table hshort =>
    match table, hshort with
    | [], _ | [_], _ | [_, _], _ | [_, _, _], _ => simp [slotStateOctets]
    | a :: b :: c :: d :: rest, hshort => exact absurd rfl (hshort a b c d rest)

/-- The octet of four slots. -/
theorem slotStateOctet_toNat (a b c d : SlotEntry) :
    (BitVec.ofNat 8 (64 * a.code + 16 * b.code + 4 * c.code + d.code)).toNat =
      64 * a.code + 16 * b.code + 4 * c.code + d.code := by
  have ha := a.code_lt
  have hb := b.code_lt
  have hc := c.code_lt
  have hd := d.code_lt
  rw [BitVec.toNat_ofNat]
  omega

/-- The state of a slot stands in its two bits of the octet of its four (READ STATUS part LIBRARY). -/
theorem slotStateOctets_get {table : List SlotEntry} {slot : Nat} {e : SlotEntry} (he : table[slot]? = some e)
    (hfour : slot / 4 < table.length / 4) :
    ∃ x, (slotStateOctets table)[slot / 4]? = some x ∧ x.toNat / 4 ^ (3 - slot % 4) % 4 = e.code := by
  induction table using slotStateOctets.induct generalizing slot with
  | case1 a b c d rest ih =>
    have ha := a.code_lt
    have hb := b.code_lt
    have hc := c.code_lt
    have hd := d.code_lt
    rcases slot with _ | _ | _ | _ | slot
    case succ.succ.succ.succ =>
      obtain ⟨x, hx, hcode⟩ := ih (slot := slot) (by simpa using he) (by simp only [List.length_cons] at hfour; omega)
      refine ⟨x, ?_, ?_⟩
      · rw [slotStateOctets, show (slot + 1 + 1 + 1 + 1) / 4 = slot / 4 + 1 by omega, List.getElem?_cons_succ, hx]
      · rw [show (slot + 1 + 1 + 1 + 1) % 4 = slot % 4 by omega, hcode]
    all_goals
      refine ⟨_, rfl, ?_⟩
      rw [slotStateOctet_toNat, ← Option.some.inj he]
      norm_num
      omega
  | case2 table hshort =>
    match table, hshort with
    | [], _ => cases he
    | [_], _ | [_, _], _ | [_, _, _], _ => simp at hfour
    | a :: b :: c :: d :: rest, hshort => exact absurd rfl (hshort a b c d rest)

theorem exec_readStatus_badPart {s : State} {sv : Service} {src : NodeId} {part : Byte}
    (h : Serving s sv (.readStatus src part)) (hpart : 2 < part.toNat) :
    exec (.readStatus src part) s = .next (answer sv .badParam [] s) := by
  refine next_of_serving h ?_
  split
  · omega
  · omega
  · omega
  · rfl

/-! ### READ QUEUE and READ ORDER (R51, R52) -/

theorem findOrder_of_first {before behind : List Order} {o : Order} (hbefore : ∀ x ∈ before, x.tag ≠ o.tag) :
    findOrder (before ++ o :: behind) o.tag = some o := by
  have hnone : before.find? (fun x => x.tag == o.tag) = none := by
    rw [List.find?_eq_none]
    simpa using hbefore
  rw [findOrder, List.find?_append, hnone, Option.none_or]
  exact List.find?_cons_of_pos (by simp)

/-- The place of an order is that of the first with its tag. -/
theorem findIdx_of_first {before behind : List Order} {o : Order} (hbefore : ∀ x ∈ before, x.tag ≠ o.tag) :
    (before ++ o :: behind).findIdx (fun x => x.tag == o.tag) = before.length := by
  have hnone : before.findIdx (fun x => x.tag == o.tag) = before.length :=
    List.findIdx_eq_length_of_false fun x hx => beq_false_of_ne (hbefore x hx)
  rw [List.findIdx_append, hnone, if_neg (Nat.lt_irrefl _), List.findIdx_cons, beq_self_eq_true, cond_true, Nat.zero_add]

theorem Mode.code_eq (m : Mode) : m.code = if m = .whole then 0 else 1 := by
  cases m <;> rfl

section
variable {s : State} {sv : Service} {src : NodeId} {tag : Word16} {part : Byte}
  (h : Serving s sv (.readOrder src tag part))
include h

theorem exec_readOrder_notFound (ho : findOrder s.queue tag = none) :
    exec (.readOrder src tag part) s = .next (answer sv .notFound [] s) :=
  next_of_serving h (by rw [ho])

theorem exec_readOrder_badPart (ho : (findOrder s.queue tag).isSome = true) (hpart : 1 < part.toNat) :
    exec (.readOrder src tag part) s = .next (answer sv .badParam [] s) := by
  obtain ⟨o, ho⟩ := Option.isSome_iff_exists.1 ho
  refine next_of_serving h ?_
  rw [ho]
  dsimp only
  split
  · omega
  · omega
  · rfl

end

/-! ### READ HISTORY (R128) -/

theorem entryOfAge_of_old {g : Groups} {age : Nat} (h : g.history.length ≤ age) : g.entryOfAge age = none :=
  if_neg (Nat.not_lt.2 h)

/-- Age 0 is the newest entry. -/
theorem entryOfAge_eq {g : Groups} {age : Nat} (h : age < g.history.length) :
    g.entryOfAge age = g.history.reverse[age]? := by
  rw [Groups.entryOfAge, if_pos h, List.getElem?_reverse h]

theorem exec_readHistory {s : State} {sv : Service} {src : NodeId} {age : Byte} (h : Serving s sv (.readHistory src age))
    (hage : age.toNat ≤ 63) {entry : Option HistoryEntry} (he : s.gh.entryOfAge age.toNat = entry) :
    exec (.readHistory src age) s = .next (answer sv .ok (octet s.gh.history.length ++ octet s.gh.rewindable ++
      (entry.map HistoryEntry.octets).getD []) s) :=
  next_of_serving h (by rw [if_neg (Nat.not_lt.2 hage), he])

/-! ### READ SETTING (R169) -/

theorem settingWidth_of_none {code : Byte} (h : code = 0 ∨ 0x12 < code.toNat) : settingWidth code = none := by
  rcases h with rfl | h
  · rfl
  · unfold settingWidth
    split <;> first | omega | rfl

/-- Settles O38: each request that reads only answers; then what each answer carries. -/
theorem readsCarryState : Obligations.ReadsCarryState := by
  refine ⟨fun s sv src tag x c hc h => exec_read_answers hc h, fun s sv src =>
    ⟨fun h => next_of_serving h rfl, fun h => ?sets, fun h hlen => ?library, fun part h hpart => exec_readStatus_badPart h hpart,
      fun h => ⟨fun hnone => ?noOutcome, fun r hr => ?outcome⟩, fun h => ⟨fun hq => ?noOrder, fun o rest hq => ?queue⟩,
      fun tag part h ho => exec_readOrder_notFound h ho, fun tag part h ho hpart => exec_readOrder_badPart h ho hpart,
      fun before o behind hq hbefore h => ?fields, fun tag o h ho => ?progress,
      fun age h => ⟨fun hage => next_of_serving h (if_pos hage), fun hage hold => ?noEntry, fun e hage hlt he => ?entry⟩,
      fun h => ⟨fun hcuts => ?noCut, fun e rest hcuts => ?cut⟩, fun h => next_of_serving h rfl,
      fun code h => ⟨fun w hw => ?setting, fun hcode => ?noSetting⟩⟩⟩
  case sets =>
    refine next_of_serving h (congrArg (answer sv .ok · s) ?_)
    cases hnote : s.rc.openCopy with
    | none => exact setsOctets_of_none hnote
    | some note => exact setsOctets_of_some hnote
  case library =>
    refine ⟨slotStateOctets s.pl.table, next_of_serving h (by rw [← libraryFlagOctet_eq]; rfl), ?_, fun slot e he => ?_⟩
    · rw [length_slotStateOctets, hlen]
    · have hslot : slot < s.pl.table.length := (List.getElem?_eq_some_iff.1 he).1
      exact slotStateOctets_get he (by omega)
  case noOutcome => exact next_of_serving h (by rw [hnone]; rfl)
  case outcome => exact next_of_serving h (by rw [hr]; rfl)
  case noOrder => exact next_of_serving h (by rw [hq]; rfl)
  case queue => exact next_of_serving h (by rw [hq])
  case fields =>
    refine next_of_serving h ?_
    rw [hq, findOrder_of_first hbefore, findIdx_of_first hbefore, ← Mode.code_eq]
    rfl
  case progress => exact next_of_serving h (by rw [ho]; rfl)
  case noEntry => rw [exec_readHistory h hage (entryOfAge_of_old hold)]; simp
  case entry => rw [exec_readHistory h hage ((entryOfAge_eq hlt).trans he)]; rfl
  case noCut => exact next_of_serving h (by rw [hcuts])
  case cut => exact next_of_serving h (by rw [hcuts])
  case setting => exact next_of_serving h (by rw [hw])
  case noSetting => exact next_of_serving h (by rw [settingWidth_of_none hcode])

/-! ### The counters (R117, R119) -/

/-- Settles O39: the window of six in the list of 14, then the clearing. -/
theorem countersReadAndCleared : Obligations.CountersReadAndCleared := by
  refine fun s sv src first => ⟨fun h hfirst => ?read, fun h hfirst => next_of_serving h (if_pos hfirst), fun h => ?clear⟩
  case read =>
    refine ⟨(s.allCounters.drop first.toNat).take 6, next_of_serving h (if_neg (Nat.not_lt.2 hfirst)), ?_, fun i hi => ?_⟩
    · rw [List.length_take, List.length_drop, show s.allCounters.length = 14 from rfl]
      omega
    · rw [List.length_take] at hi
      rw [List.getElem?_take_of_lt (by omega), List.getElem?_drop]
  case clear => exact ⟨_, next_of_serving h rfl, rfl, rfl⟩

end Sys2Proof.Machine
end

section
/-! SUPPORT. The group sets: which commands can change them, that every step keeps them apart, and what the four requests of the
THREAD monitors and the SUPERVISOR make of them. -/

namespace Sys2Proof.Machine

/-! ### Operations that leave the broken and the parked set -/

/-- The broken and the parked set stand as they stood. -/
def SameSets (s t : State) : Prop := t.gh.broken = s.gh.broken ∧ t.gh.parked = s.gh.parked

theorem SameSets.of_gh {s t : State} (h : t.gh = s.gh) : SameSets s t := by
  rw [SameSets, h]
  exact ⟨rfl, rfl⟩

@[simp] theorem take_gh (d : Drive) (serial : Word32) (sv : Service) (s : State) : (take d serial sv s).gh = s.gh := by
  unfold take; (repeat' split) <;> simp
@[simp] theorem setupLoad_gh (s : State) : (setupLoad s).gh = s.gh := by
  unfold setupLoad followSettings; dsimp only; split <;> rfl
@[simp] theorem scanRead_gh (found : List SlotEntry) (r : ScanRead) (s : State) : (scanRead found r s).gh = s.gh := by
  unfold scanRead; dsimp only; (repeat' split) <;> simp
@[simp] theorem deliver_gh (r : ReadFor) (s : State) : (deliver r s).gh = s.gh := by
  unfold deliver; (repeat' split) <;> simp
@[simp] theorem backstitch_gh (reposition : Record) (replay : List Record) (s : State) :
    (backstitch reposition replay s).gh = s.gh := by simp [backstitch]

/-- A retirement files the record and places the barrier (R127, R129). -/
theorem retire_sameSets (r : Record) (s : State) : SameSets s (retire r s) := by
  rw [SameSets, retire_gh]
  exact ⟨rfl, rfl⟩

/-- That of a REPOSITION record places the barrier alone (R93). -/
theorem retireReposition_sameSets (r : Record) (s : State) : SameSets s (retireReposition r s) := by
  rw [SameSets, retireReposition_gh]
  exact ⟨rfl, rfl⟩

/-- START places the barrier (R109). -/
theorem startRun_sameSets (s : State) : SameSets s (startRun s) := by
  obtain ⟨-, -, hgh, -⟩ := startRun_blocks s
  rw [SameSets, hgh]
  exact ⟨rfl, rfl⟩

theorem needleUp_sameSets (s : State) : SameSets s (needleUp s) := by
  have hretires : ∀ (u : State) (r : Record), u.gh = s.gh → SameSets s (retire r u) := fun u r hu => by
    obtain ⟨hbroken, hparked⟩ := retire_sameSets r u
    exact ⟨hbroken.trans (by rw [hu]), hparked.trans (by rw [hu])⟩
  unfold needleUp
  split
  · exact ⟨rfl, rfl⟩
  · exact .of_gh (raiseCause_gh ..)
  · exact .of_gh (raiseCause_gh ..)
  · unfold needleUpRun
    split
    · exact hretires _ _ rfl
    · exact .of_gh (by simp)
    · exact .of_gh (raiseCause_gh ..)
  · unfold needleUpHalting
    dsimp only
    split
    · exact hretires _ _ rfl
    · exact .of_gh (by simp)
    · exact .of_gh (by simp)

/-! ### Commands that leave the sets -/

/-- The commands that can change the sets: the resets, REPORT BREAK, REPORT MENDED, PARK and UNPARK (R122 to R126). -/
def changesSets : Instr → Bool
  | .powerOn | .powerOff _ | .resetnAssert _ | .resetnRelease | .resetPartApply | .reportBreak _ _ | .reportMended _ _
  | .park _ _ | .unpark _ _ => true
  | _ => false

theorem whenReady_sameSets {s : State} {f : State → State} (hf : SameSets s (f s)) : SameSets s (whenReady s f) :=
  whenReady_keeps ⟨rfl, rfl⟩ fun _ => hf

theorem whenPowered_sameSets {s : State} {f : State → State} (hf : SameSets s (f s)) : SameSets s (whenPowered s f) :=
  whenPowered_keeps ⟨rfl, rfl⟩ fun _ => hf

/-- A request leaves the sets when its owner's step does. -/
theorem takeRequest_sameSets {c : Instr} {own : Service → State → State} {s : State}
    (hown : ∀ sv s', SameSets s' (own sv s')) : SameSets s (takeRequest c own s) :=
  takeRequest_keeps ⟨rfl, rfl⟩ (fun _ _ _ => .of_gh (handOn_gh ..)) fun sv s' h _ =>
    ⟨(hown sv s').1.trans h.1, (hown sv s').2.trans h.2⟩

/-- No other command reaches the sets. -/
theorem exec_sameSets {c : Instr} (h : changesSets c = false) (s : State) : Leaves (exec c s) (SameSets s) := by
  cases c with
  | powerOn | powerOff | resetnAssert | resetnRelease | resetPartApply | reportBreak | reportMended | park | unpark => cases h
  | needleUp us => exact ⟨_, rfl, whenReady_sameSets (by split; exacts [needleUp_sameSets s, ⟨rfl, rfl⟩])⟩
  | holdSeenChange | stopSilenceExpiry | resumeSettleEnd | frameHandOn | notAStartMark | expansionEvent =>
    refine ⟨_, rfl, whenReady_sameSets (.of_gh ?_)⟩
    (repeat' split) <;> simp
  | programStepComplete | eraseComplete | boundExpiry | progressIntervalEnd | readComplete =>
    refine ⟨_, rfl, whenPowered_sameSets (.of_gh ?_)⟩
    (repeat' split) <;> simp
  | inboundFrame | frameNotForPart | lineIdle | frameStart | frameDelivered | arbitrationLost | errorAbort =>
    exact ⟨_, rfl, whenReady_sameSets ⟨rfl, rfl⟩⟩
  | start =>
    refine ⟨_, rfl, takeRequest_sameSets fun _ s' => ?_⟩
    (repeat' split) <;> first | exact startRun_sameSets s' | exact ⟨rfl, rfl⟩
  | reportMoved =>
    refine ⟨_, rfl, takeRequest_sameSets fun sv s' => ?_⟩
    have hmoves : ∀ (w : Window) (r : Record), SameSets s' (answer sv .ok [1] (retireReposition r (s'.setSw w))) :=
      fun w r => retireReposition_sameSets r (s'.setSw w)
    dsimp only
    (repeat' split) <;> first | exact hmoves _ _ | exact .of_gh rfl
  | reportSplice | setSetting | setRole | backstitch =>
    refine ⟨_, rfl, takeRequest_sameSets fun _ _ => .of_gh ?_⟩
    dsimp only
    (repeat' split) <;> simp
  | loadBuffer | clearBuffer | commitPage | eraseSlot | closeSlot | readLibrary | readOutcome | enqueue | cancel | readQueue
  | readOrder | takeHead | takeFeed | stop | endRun | resume | abort | clearCauses | reportStopped | readStatus
  | readCounters | clearCounters | readHistory | cutQuery | cutDone | writeSetup | reloadSetup | resetPart | readSetting
  | readTable =>
    refine ⟨_, rfl, takeRequest_sameSets fun _ _ => .of_gh ?_⟩
    (repeat' split) <;> simp [abortRun_gh]

/-! ### Sets without a common group -/

theorem GroupsApart.of_same {s t : State} (h : GroupsApart s) (hsame : SameSets s t) : GroupsApart t := by
  obtain ⟨hbroken, hparked⟩ := hsame
  rw [GroupsApart, hbroken, hparked]
  exact h

/-- Two sets are apart where no group of the one stands in the other. -/
theorem apart_iff {a b : Word32} :
    a &&& b = 0 ↔ ∀ i, i < 32 → a.getLsbD i = true → b.getLsbD i = false := by
  constructor
  · intro h i _ ha
    have hbit := congrArg (fun x : Word32 => x.getLsbD i) h
    simpa [ha] using hbit
  · intro h
    refine BitVec.eq_of_getLsbD_eq fun i hi => ?_
    cases ha : a.getLsbD i with
    | false => simp [ha]
    | true => simp [h i hi ha]

section
variable {broken parked : Word32} (groups : Word32)

/-- What parks is no longer broken (R125). -/
theorem park_apart (h : broken &&& parked = 0) : broken &&& ~~~groups &&& (parked ||| groups) = 0 := by
  rw [apart_iff] at h ⊢
  intro i hi hbit
  simp only [BitVec.getLsbD_and, BitVec.getLsbD_not, Bool.and_eq_true, Bool.not_eq_true', hi, decide_true, true_and] at hbit
  obtain ⟨hbroken, hgroup⟩ := hbit
  rw [BitVec.getLsbD_or, h i hi hbroken, hgroup]
  rfl

/-- Only groups that are not parked break (R123). -/
theorem break_apart (h : broken &&& parked = 0) : (broken ||| (groups &&& ~~~parked)) &&& parked = 0 := by
  rw [apart_iff] at h ⊢
  intro i hi hbit
  simp only [BitVec.getLsbD_or, BitVec.getLsbD_and, BitVec.getLsbD_not, Bool.or_eq_true, Bool.and_eq_true,
    Bool.not_eq_true', hi, decide_true, true_and] at hbit
  rcases hbit with hbroken | ⟨-, hfree⟩
  · exact h i hi hbroken
  · exact hfree

/-- Sets that shrink stay apart (R124, R126). -/
theorem mended_apart (h : broken &&& parked = 0) : broken &&& ~~~groups &&& parked = 0 := by
  rw [BitVec.and_assoc, BitVec.and_comm (~~~groups), ← BitVec.and_assoc, h]
  exact BitVec.zero_and

theorem unpark_apart (h : broken &&& parked = 0) : broken &&& (parked &&& ~~~groups) = 0 := by
  rw [← BitVec.and_assoc, h]
  exact BitVec.zero_and

end

theorem groupsApart_held (pins : Pins) (array : List Host.Cell) (pending : List Instr) :
    GroupsApart (State.held pins array pending) := BitVec.zero_and

theorem groupsApart_startUp (array : List Host.Cell) (pending : List Instr) :
    GroupsApart (State.startUp array pending) := BitVec.zero_and

theorem groupsApart_partReset (s : State) : GroupsApart s.partReset := BitVec.zero_and

/-- A request keeps the sets apart when its owner's step does. -/
theorem GroupsApart.takeRequest {c : Instr} {own : Service → State → State} {s : State} (h : GroupsApart s)
    (hown : ∀ sv s', GroupsApart s' → GroupsApart (own sv s')) : GroupsApart (takeRequest c own s) :=
  takeRequest_keeps h (fun r _ _ => h.of_same (.of_gh (handOn_gh r s))) fun sv s' h' _ => hown sv s' h'

/-- Every command keeps the sets apart: the resets empty them, the four requests by the laws above, the others because they do not
reach the sets. -/
theorem exec_groupsApart (c : Instr) {s : State} (h : GroupsApart s) : Leaves (exec c s) GroupsApart := by
  cases hc : changesSets c with
  | false =>
    obtain ⟨t, ht, hsame⟩ := exec_sameSets hc s
    exact ⟨t, ht, h.of_same hsame⟩
  | true =>
    cases c with
    | powerOn => exact ⟨_, rfl, by split; exacts [groupsApart_held .., groupsApart_startUp ..]⟩
    | powerOff | resetnAssert => exact ⟨_, rfl, groupsApart_held ..⟩
    | resetnRelease => exact ⟨_, rfl, by split; exacts [groupsApart_startUp .., h]⟩
    | resetPartApply =>
      exact ⟨_, rfl, whenReady_keeps h fun _ => by split; exacts [groupsApart_partReset s, h]⟩
    | reportBreak src groups =>
      refine ⟨_, rfl, h.takeRequest fun sv s' h' => ?_⟩
      dsimp only
      split
      · exact h'
      · have hbroken : GroupsApart (s'.setGh { s'.gh with broken := s'.gh.broken ||| (groups &&& ~~~s'.gh.parked) }) :=
          break_apart groups h'
        split
        · exact hbroken.of_same (.of_gh (raiseCause_gh ..))
        · exact hbroken
    | reportMended src groups =>
      refine ⟨_, rfl, h.takeRequest fun sv s' h' => ?_⟩
      split
      exacts [h', mended_apart groups h']
    | park src groups =>
      refine ⟨_, rfl, h.takeRequest fun sv s' h' => ?_⟩
      split
      exacts [h', park_apart groups h']
    | unpark src groups =>
      refine ⟨_, rfl, h.takeRequest fun sv s' h' => ?_⟩
      split
      exacts [h', unpark_apart groups h']
    | _ => cases hc

/-- Settles O10: a step idles, or executes its front command, which keeps the sets apart. -/
theorem groupSetsStayApart : Obligations.GroupSetsStayApart := by
  intro s t h hstep
  unfold step at hstep
  split at hstep
  · cases hstep
    exact h
  · next c rest _ =>
    obtain ⟨u, hu, hapart⟩ := exec_groupsApart c (s := s.setPending rest) h
    rw [hu] at hstep
    cases hstep
    exact hapart

/-! ### The four requests (R123 to R126) -/

/-- Of the blocks a cause reaches Run Control and the Line Port alone. -/
theorem raiseCause_blocks (c : Cause) (s : State) :
    raiseCause c s = (s.setRc (raiseCause c s).rc).setLp (raiseCause c s).lp := by
  unfold raiseCause
  split
  · exact enterHalting_blocks c s
  · exact enterHalting_blocks c s
  · rfl
  · rfl
  · rfl

/-- In each state in which a break raises its cause, the cause joins the set and HALTING is the run state (R99, R123). -/
theorem raiseCause_of_breakRaises {s : State} (h : breakRaises s.rc.state = true) (c : Cause) :
    (raiseCause c s).rc.causes = s.rc.causes ||| c.bit ∧ (raiseCause c s).rc.state = .halting := by
  unfold raiseCause
  split
  · exact ⟨rfl, rfl⟩
  · exact ⟨rfl, rfl⟩
  · next hstate => exact ⟨rfl, hstate⟩
  · next hstate => rw [hstate] at h; cases h
  · next hstate => rw [hstate] at h; cases h

theorem breakRaises_eq (state : RunState) :
    breakRaises state = (state == .priming || state == .run || state == .halting) := by
  cases state <;> rfl

/-- The part with the groups of a report that are not parked in the broken set (R123). -/
def State.broke (s : State) (groups : Word32) : State :=
  s.setGh { s.gh with broken := s.gh.broken ||| (groups &&& ~~~s.gh.parked) }

/-- The report raises THREAD_BREAK (R123). -/
def State.breakHalts (s : State) (groups : Word32) : Bool := s.gh.newlyBroken groups != 0 && breakRaises s.rc.state

/-- The part after a report of broken groups, before its answer. -/
def State.breakReported (s : State) (groups : Word32) : State :=
  if s.breakHalts groups then raiseCause .threadBreak (s.broke groups) else s.broke groups

section
variable {s : State} {sv : Service} {src : NodeId} {groups : Word32}

theorem exec_reportBreak (h : Serving s sv (.reportBreak src groups)) (hgroups : groups ≠ 0) :
    exec (.reportBreak src groups) s = .next (answer sv .ok
      (octets32 (groups &&& s.gh.parked) ++ octets32 (s.broke groups).gh.broken ++ [boolOctet (s.breakHalts groups)])
      (s.breakReported groups)) :=
  next_of_serving h (if_neg hgroups)

theorem breakReported_gh : (s.breakReported groups).gh = (s.broke groups).gh := by
  unfold State.breakReported; split <;> simp

theorem breakReported_general : (s.breakReported groups).lp.general = s.lp.general := by
  unfold State.breakReported; split
  · exact raiseCause_lp_general ..
  · rfl

theorem breakReported_blocks :
    s.breakReported groups = ((s.broke groups).setRc (s.breakReported groups).rc).setLp (s.breakReported groups).lp := by
  unfold State.breakReported; split
  · exact raiseCause_blocks ..
  · rfl

theorem breakReported_of_not (h : s.breakHalts groups = false) : (s.breakReported groups).rc = s.rc := by
  rw [State.breakReported, h]
  rfl

theorem breakReported_of_halts (h : s.breakHalts groups = true) :
    (s.breakReported groups).rc.causes = s.rc.causes ||| 0x0001 ∧ (s.breakReported groups).rc.state = .halting := by
  rw [State.breakReported, if_pos h]
  rw [State.breakHalts, Bool.and_eq_true] at h
  exact raiseCause_of_breakRaises (s := s.broke groups) h.2 .threadBreak

end

/-- Settles O51: REPORT BREAK by whether it raises its cause, the three others by their owner's step. -/
theorem groupSetsChange : Obligations.GroupSetsChange := by
  intro s sv src groups
  refine ⟨fun h => ⟨fun hnone => next_of_serving h (if_pos hnone), fun hsome => ⟨_, exec_reportBreak h hsome, ?breaks⟩⟩,
    fun h => ⟨fun hnone => next_of_serving h (if_pos hnone), fun hsome => next_of_serving h (if_neg hsome)⟩,
    fun h => ⟨fun hnone => next_of_serving h (if_pos hnone), fun hsome => next_of_serving h (if_neg hsome)⟩,
    fun h => ⟨fun hnone => next_of_serving h (if_pos hnone), fun hsome => next_of_serving h (if_neg hsome)⟩⟩
  case breaks =>
    have hraised : s.breakHalts groups = (groups &&& ~~~s.gh.parked &&& ~~~s.gh.broken != 0 &&
        (s.rc.state == .priming || s.rc.state == .run || s.rc.state == .halting)) := by
      rw [State.breakHalts, breakRaises_eq]
      rfl
    simp only [answer_gh, answer_rc, ← hraised, breakReported_gh]
    refine ⟨rfl, ?_, ?_, breakReported_of_not, breakReported_of_halts⟩
    · rw [answer, answerThen, breakReported_blocks]
      rfl
    · rw [answer_lp, answer_lp, breakReported_general]

end Sys2Proof.Machine
end

section
/-! SUPPORT. BACKSTITCH: the replay list, the window it is placed in, the expander rolled back, and the state after all of it. -/

namespace Sys2Proof.Machine

/-! ### The replay list (R131, R134) -/

/-- A record with its serial set aside. -/
def Record.unnumbered (r : Record) : Record := { r with serial := 0 }

/-- The records of the window that a BACKSTITCH carries over, as they stand before it (R131). -/
def Window.replaysLeft (w : Window) : List Record :=
  if (w.ring.head?.map Record.kind) = some .reposition ∨ w.ring = [] then []
  else (w.ring.filter fun r => r.flags.replay) ++ w.waiting

theorem carried_eq (w : Window) : w.carried = w.replaysLeft.map Record.replayed := by
  unfold Window.carried Window.replaysLeft
  cases w.ring with
  | nil => rfl
  | cons r rest =>
    by_cases hkind : r.kind = .reposition
    · simp [hkind]
    · simp [hkind]

/-- The REPLAY records of the newest entries and behind them the carried ones. -/
def State.replayList (s : State) (count : Nat) : List Record :=
  (s.gh.newest count).map HistoryEntry.replay ++ s.sw.carried

theorem length_newest {g : Groups} {count : Nat} (h : count ≤ g.history.length) : (g.newest count).length = count := by
  rw [Groups.newest, List.length_drop]
  omega

theorem newest_zero (g : Groups) : g.newest 0 = [] := by
  rw [Groups.newest, Nat.sub_zero, List.drop_length]

/-- The oldest of the newest entries stands that many from the end. -/
theorem newest_cons {g : Groups} {count : Nat} (hpos : 1 ≤ count) (h : count ≤ g.history.length) :
    ∃ e rest, g.newest count = e :: rest ∧ g.history[g.history.length - count]? = some e := by
  have hlt : g.history.length - count < g.history.length := by omega
  exact ⟨_, _, List.drop_eq_getElem_cons hlt, List.getElem?_eq_getElem hlt⟩

/-- Every record of the list is one that joins a replay list (R134). -/
theorem replayed_of_mem_replayList {s : State} {count : Nat} {x : Record} (h : x ∈ s.replayList count) :
    ∃ r : Record, x = r.replayed := by
  rcases List.mem_append.1 h with h | h
  · obtain ⟨e, -, rfl⟩ := List.mem_map.1 h
    exact ⟨_, rfl⟩
  · rw [carried_eq] at h
    obtain ⟨r, -, rfl⟩ := List.mem_map.1 h
    exact ⟨r, rfl⟩

/-- The replay list as the statement writes it, serials apart. -/
theorem replayList_unnumbered (s : State) (count : Nat) :
    (s.replayList count).map Record.unnumbered =
      (s.gh.newest count).map (fun e => e.replay.unnumbered) ++
        s.sw.replaysLeft.map fun r => r.replayed.unnumbered := by
  rw [State.replayList, carried_eq, List.map_append, List.map_map, List.map_map]
  rfl

theorem length_replayList {s : State} {count : Nat} (h : count ≤ s.gh.history.length) :
    (s.replayList count).length = count + s.sw.replaysLeft.length := by
  rw [State.replayList, carried_eq, List.length_append, List.length_map, List.length_map, length_newest h]

/-- A REPLAY record that no drive has taken (R134). -/
def Record.Untaken (r : Record) : Prop :=
  r.flags.replay = true ∧ r.takenHead = false ∧ r.takenFeed = false ∧ r.effective = none ∧ r.flags.skipped = false ∧
    r.flags.clipped = false ∧ r.context = none

theorem replayed_untaken (r : Record) : r.replayed.Untaken := ⟨rfl, rfl, rfl, rfl, rfl, rfl, rfl⟩

theorem unnumbered_untaken (r : Record) : r.unnumbered.Untaken ↔ r.Untaken := Iff.rfl

/-- So is, whatever its serial, every record of the window that comes from the list. -/
theorem untaken_of_replayList {s : State} {count : Nat} {records : List Record}
    (h : records.map Record.unnumbered = (s.replayList count).map Record.unnumbered) : ∀ x ∈ records, x.Untaken := by
  intro x hx
  have hlisted : x.unnumbered ∈ (s.replayList count).map Record.unnumbered := h ▸ List.mem_map_of_mem hx
  obtain ⟨y, hy, hsame⟩ := List.mem_map.1 hlisted
  obtain ⟨r, rfl⟩ := replayed_of_mem_replayList hy
  rw [← unnumbered_untaken, ← hsame, unnumbered_untaken]
  exact replayed_untaken r

/-! ### The window (R95, R135) -/

/-- Waiting records join behind a record that stands alone, as far as there are places. -/
theorem joinWaiting_behind {w : Window} {oldest : Record} (hring : w.ring = [oldest]) :
    (∃ rest, (w.joinWaiting 16).ring = oldest :: rest ∧
      (rest ++ (w.joinWaiting 16).waiting).map Record.unnumbered = w.waiting.map Record.unnumbered) ∧
      (w.joinWaiting 16).ring.length = min 16 (1 + w.waiting.length) := by
  obtain ⟨⟨more, hmore⟩, hlength, hrecords⟩ := joinWaiting_spec 16 w (by omega) (by simp [hring])
  rw [hring, List.singleton_append] at hmore
  rw [hring, List.length_singleton] at hlength
  rw [hmore, hring, List.cons_append, List.singleton_append, List.map_cons, List.map_cons, List.cons.injEq] at hrecords
  exact ⟨⟨more, hmore, hrecords.2⟩, hlength⟩

/-- In an empty window the REPOSITION record stands first, with both cursors; behind it the replay list has joined as far as there
are places, and waits from there on. -/
theorem placeReplay_spec {w : Window} (hempty : w.ring = []) (reposition : Record) (replay : List Record) :
    (∃ rest, (w.placeReplay reposition replay).ring = { reposition with serial := w.counter } :: rest ∧
      (rest ++ (w.placeReplay reposition replay).waiting).map Record.unnumbered = replay.map Record.unnumbered) ∧
      (w.placeReplay reposition replay).ring.length = min 16 (1 + replay.length) ∧
      (w.placeReplay reposition replay).headNext = w.counter ∧ (w.placeReplay reposition replay).feedNext = w.counter := by
  have hring : ({ w.join reposition with waiting := replay } : Window).ring = [{ reposition with serial := w.counter }] := by
    show w.ring ++ _ = _
    rw [hempty]
    rfl
  obtain ⟨hrecords, hlength⟩ := joinWaiting_behind hring
  exact ⟨hrecords, hlength, rfl, rfl⟩

/-! ### The expander (R78, R132) -/

/-- The expander at a context, with no segment in hand (R78). -/
def Expander.rolledTo (x : Expander) (c : Context) : Expander := { x with context := c, hand := [], state := .expanding }

theorem rollback_sx {s : State} {c : Context} (h : s.sx.checkpoint = some c) : (rollback s).sx = s.sx.rolledTo c := by
  have hrolled : rollback s = (dropReads s).setSx ((dropReads s).sx.rolledTo c) := by
    unfold rollback
    dsimp only
    have hcheck : (dropReads s).sx.checkpoint = some c := h
    split
    · next hsome => rw [hcheck] at hsome; cases hsome; rfl
    · next hnone => rw [hcheck] at hnone; cases hnone
  rw [hrolled]
  rfl

/-- In HALTED settling moves the expander alone, by its own rules. -/
theorem settle_sx_of_halted {s : State} (h : s.rc.state = .halted) : (settle s).sx = (sxSettle 4 s).sx := by
  have hrests : rcTests (sxSettle 4 s) = sxSettle 4 s :=
    rcTests_rests (by simp [h]) (by simp [State.runDone, h])
  rw [settle, hrests, portNext_sx]

/-! ### The whole -/

/-- The part with the window discarded, the expander rolled back and the replay placed. -/
def replayPlaced (reposition : Record) (replay : List Record) (s : State) : State :=
  (rollback (discard s)).setSw ((discard s).sw.placeReplay reposition replay)

section
variable (reposition : Record) (replay : List Record) (s : State)

theorem backstitch_eq : backstitch reposition replay s =
    announceState .backstitch ((settle (replayPlaced reposition replay s)).setQueue
      (countRewind s.rc.openCopy s.queue)) := by
  simp [backstitch, replayPlaced]

theorem backstitch_queue : (backstitch reposition replay s).queue = countRewind s.rc.openCopy s.queue := by
  rw [backstitch_eq]
  rfl

theorem backstitch_sw : (backstitch reposition replay s).sw = (discard s).sw.placeReplay reposition replay := by
  simp [backstitch_eq, replayPlaced]

theorem backstitch_wt : (backstitch reposition replay s).wt = (discard s).wt := by
  simp [backstitch_eq, replayPlaced]

theorem backstitch_wt_same :
    (backstitch reposition replay s).wt.web = s.wt.web ∧ (backstitch reposition replay s).wt.lateral = s.wt.lateral ∧
      (backstitch reposition replay s).wt.cuts = s.wt.cuts ∧ (backstitch reposition replay s).wt.zones = s.wt.zones := by
  simp [backstitch_wt]

theorem backstitch_checkpoint : (backstitch reposition replay s).sx.checkpoint = s.sx.checkpoint := by
  simp [backstitch_eq, replayPlaced]

theorem backstitch_general : (backstitch reposition replay s).lp.general = s.lp.general := by
  simp [backstitch_eq, replayPlaced]

theorem backstitch_rc_same : (backstitch reposition replay s).rc.causes = s.rc.causes ∧
    (backstitch reposition replay s).rc.holdDriven = s.rc.holdDriven ∧
    (backstitch reposition replay s).rc.endRequested = s.rc.endRequested := by
  simp [backstitch_eq, replayPlaced]

variable {s}

theorem replayPlaced_state (hstate : s.rc.state = .halted) : (replayPlaced reposition replay s).rc.state = .halted := by
  simpa [replayPlaced] using hstate

theorem backstitch_state (hstate : s.rc.state = .halted) : (backstitch reposition replay s).rc.state = .halted := by
  have hplaced := replayPlaced_state reposition replay hstate
  rw [backstitch_eq]
  exact (settle_state_same (by simp [hplaced]) (by simp [hplaced])).trans hplaced

/-- STATE says HALTED, reason BACKSTITCH, with the REPOSITION record as the oldest (R120). -/
theorem backstitch_statePlace (hstate : s.rc.state = .halted) :
    (backstitch reposition replay s).lp.statePlace.map OutFrame.params =
      some (4 :: octets16 s.rc.causes ++ [boolOctet s.rc.endRequested] ++ octets32 s.sw.counter ++ [9, 0xFF]) := by
  obtain ⟨⟨rest, hring, -⟩, -⟩ := placeReplay_spec (w := (discard s).sw) rfl reposition replay
  have holdest : (backstitch reposition replay s).sw.oldest = s.sw.counter := by
    rw [backstitch_sw, Window.oldest, hring]
    rfl
  have hsays : (backstitch reposition replay s).lp.statePlace.map OutFrame.params =
      some (stateOctets (backstitch reposition replay s) .backstitch) := by
    rw [backstitch_eq]
    rfl
  obtain ⟨hcauses, -, hended⟩ := backstitch_rc_same reposition replay s
  rw [hsays, stateOctets, backstitch_state reposition replay hstate, hcauses, hended, holdest]
  rfl

theorem backstitch_sx (hstate : s.rc.state = .halted) :
    (backstitch reposition replay s).sx = (sxSettle 4 (replayPlaced reposition replay s)).sx := by
  rw [backstitch_eq, ← settle_sx_of_halted (replayPlaced_state reposition replay hstate)]
  rfl

variable {c : Context} (hcheck : s.sx.checkpoint = some c)
include hcheck

theorem replayPlaced_sx : (replayPlaced reposition replay s).sx = s.sx.rolledTo c := by
  rw [replayPlaced, setSw_sx]
  exact rollback_sx (s := discard s) hcheck

/-- What comes next is read off the checkpoint. -/
theorem replayPlaced_plan : (replayPlaced reposition replay s).plan = (s.setSx (s.sx.rolledTo c)).plan := by
  have hsx := replayPlaced_sx reposition replay hcheck
  exact plan_congr (by rw [hsx]; rfl) (by rw [hsx]; rfl) (by simp [replayPlaced]) (by simp [replayPlaced])
    (by simp [replayPlaced])

theorem replayPlaced_goesOn : (replayPlaced reposition replay s).sx.state.goesOn = true := by
  rw [replayPlaced_sx reposition replay hcheck]
  rfl

/-- Before a copy's end the expander stands at the checkpoint. -/
theorem backstitch_keeps_checkpoint (hstate : s.rc.state = .halted)
    (hplan : ∀ x, (s.setSx (s.sx.rolledTo c)).plan ≠ .ended x) :
    (backstitch reposition replay s).sx.context = c ∧ (backstitch reposition replay s).sx.hand = [] := by
  rw [← replayPlaced_plan reposition replay hcheck] at hplan
  obtain ⟨hhand, hcontext⟩ := sxSettle_keeps_copy 4 hplan
  rw [backstitch_sx reposition replay hstate, hhand, hcontext, replayPlaced_sx reposition replay hcheck]
  exact ⟨rfl, rfl⟩

/-- For want of a segment it reads it. -/
theorem backstitch_reads (hstate : s.rc.state = .halted) {i : Nat}
    (hplan : (s.setSx (s.sx.rolledTo c)).plan = .need i) : (backstitch reposition replay s).sx.state = .expanding := by
  rw [← replayPlaced_plan reposition replay hcheck] at hplan
  rw [backstitch_sx reposition replay hstate, sxSettle_need 3 (replayPlaced_goesOn reposition replay hcheck) hplan,
    askSegment_sx]
  rfl

/-- With a place for the next record it expands. -/
theorem backstitch_expands (hstate : s.rc.state = .halted) {m : Making} {first last closing : Bool}
    (hplan : (s.setSx (s.sx.rolledTo c)).plan = .make m first last closing)
    (hring : (backstitch reposition replay s).sw.ring.length < 16) (hwait : (backstitch reposition replay s).sw.waiting = [])
    (hcuts : closing = true → (backstitch reposition replay s).wt.cuts.length +
      (backstitch reposition replay s).wt.reservations.length < 8) :
    (backstitch reposition replay s).sx.state = .expanding := by
  rw [← replayPlaced_plan reposition replay hcheck] at hplan
  rw [backstitch_sw] at hring hwait
  rw [backstitch_wt] at hcuts
  rw [backstitch_sx reposition replay hstate, sxSettle_make 3 (replayPlaced_goesOn reposition replay hcheck) hplan]
  exact readyState_of_room hring hwait (by simpa [replayPlaced] using hcuts)

end

/-- The reservations of the discarded records are released, no others (R94, R144). -/
theorem mem_discard_reservations {s : State} {x : Reservation} :
    x ∈ (discard s).wt.reservations ↔ x ∈ s.wt.reservations ∧ ∀ r ∈ s.sw.ring, r.serial ≠ x.serial := by
  simp [discard]

/-! ### The obligation -/

section
variable {s : State} {sv : Service} {src : NodeId} {n : Byte} (h : Serving s sv (.backstitch src n))
  (hstate : s.rc.state = .halted) (hn : n ≠ 0)
include h hstate hn

/-- BACKSTITCH with entries to rewind. -/
theorem exec_backstitch_rewinds {e : HistoryEntry} {rest : List HistoryEntry} {count : Nat}
    (hcount : count = rewound n s.gh.rewindable) (hentries : s.gh.newest count = e :: rest) :
    exec (.backstitch src n) s = .next (answer sv (if count < n.toNat then .okClamped else .ok)
      (octet count ++ octet s.sw.replaysLeft.length ++ octets32 s.sw.counter ++
        octetsInt16 (repositionRecord e (s.gh.newest count) s.wt).dx ++
        octetsInt16 (repositionRecord e (s.gh.newest count) s.wt).dy)
      (backstitch (repositionRecord e (s.gh.newest count) s.wt) (s.replayList count) s)) := by
  refine next_of_serving h ?_
  rw [if_neg (not_not.2 hstate), if_neg hn, State.replayList, ← List.length_map Record.replayed, ← carried_eq]
  dsimp only
  rw [← hcount, hentries]

theorem exec_backstitch_nothing (hnone : s.gh.rewindable = 0) :
    exec (.backstitch src n) s = .next (answer sv .nothingToRewind [] s) := by
  have hzero : rewound n s.gh.rewindable = 0 := by rw [rewound, hnone, Nat.min_zero, Nat.min_zero]
  refine next_of_serving h ?_
  rw [if_neg (not_not.2 hstate), if_neg hn]
  dsimp only
  rw [hzero, newest_zero]

end

/-- Settles O52: the window from the placing of the replay list, the expander from the plan at the checkpoint, the rest by what
the parts of a BACKSTITCH leave. -/
theorem backstitchPlacesReplay : Obligations.BackstitchPlacesReplay := by
  intro s sv src n h
  refine ⟨fun hstate hn hrewindable hfiled => ?rewinds, fun hstate => next_of_serving h (if_pos hstate),
    fun hstate hn => next_of_serving h (by rw [if_neg (not_not.2 hstate), if_pos hn]),
    fun hstate hn hnone => exec_backstitch_nothing h hstate hn hnone⟩
  case rewinds =>
    have hpos : 1 ≤ n.toNat := Nat.one_le_iff_ne_zero.2 fun hzero => hn (BitVec.eq_of_toNat_eq hzero)
    obtain ⟨count, hcount⟩ : ∃ count, count = min n.toNat (min 32 s.gh.rewindable) := ⟨_, rfl⟩
    have hsome : 1 ≤ count := by omega
    have hheld : count ≤ s.gh.history.length := by omega
    obtain ⟨e, entries, hentries, he⟩ := newest_cons hsome hheld
    have hexec := exec_backstitch_rewinds h hstate hn hcount hentries
    generalize hreposition : repositionRecord e (s.gh.newest count) s.wt = reposition at hexec
    obtain ⟨⟨rest, hring, hrecords⟩, hlength, hhead, hfeed⟩ :=
      placeReplay_spec (w := (discard s).sw) rfl reposition (s.replayList count)
    rw [← backstitch_sw] at hring hrecords hlength hhead hfeed
    obtain ⟨hcauses, hdriven, -⟩ := backstitch_rc_same reposition (s.replayList count) s
    obtain ⟨hweb, hlateral, hcuts, hzones⟩ := backstitch_wt_same reposition (s.replayList count) s
    subst hreposition
    refine ⟨_, hexec, ?_⟩
    simp only [answer_sw, answer_rc, answer_sx, answer_queue, answer_wt, answer_gh, ← hcount]
    refine ⟨⟨_, rest, e, hring, rfl, rfl, he, rfl, rfl, rfl, rfl, rfl, rfl, rfl, untaken_of_replayList hrecords⟩,
      ⟨?records, ?length, ?answered, ?queue⟩, hhead, hfeed, backstitch_gh .., backstitch_state _ _ hstate, hcauses, hdriven,
      hweb, hlateral, hcuts, hzones, backstitch_checkpoint .., fun x => ?reservations, backstitch_statePlace _ _ hstate,
      fun c hcheck => ⟨?keeps, ?reads, ?expands⟩⟩
    case records =>
      rw [hring]
      exact hrecords.trans (replayList_unnumbered s count)
    case length =>
      rw [hlength, length_replayList hheld, ← Nat.add_assoc]
      rfl
    case answered =>
      intro r hr
      rw [hring] at hr
      cases hr
      rw [answer_lp, answer_lp, backstitch_general]
      rfl
    case queue =>
      rw [backstitch_queue]
      cases s.rc.openCopy <;> rfl
    case reservations =>
      rw [backstitch_wt]
      exact mem_discard_reservations
    case keeps => exact backstitch_keeps_checkpoint _ _ hcheck hstate
    case reads => exact fun i => backstitch_reads _ _ hcheck hstate
    case expands => exact fun m first last closing => backstitch_expands _ _ hcheck hstate

end Sys2Proof.Machine
end

section
/-! SUPPORT. The Web Tracker's requests: the search of the cut list, the splice-late mark, and what REPORT SPLICE leaves when it is
late and when the list is full. -/

namespace Sys2Proof.Machine

/-! ### The search of the cut list (R146, R150) -/

theorem isOf_iff {e : CutEntry} {tag : Word16} {copy : Nat} : e.isOf tag copy = true ↔ e.tag = tag ∧ e.copy = copy := by
  rw [CutEntry.isOf, Bool.and_eq_true, beq_iff_eq, beq_iff_eq]

theorem not_isOf_iff {e : CutEntry} {tag : Word16} {copy : Nat} : ¬ e.isOf tag copy = true ↔ e.tag ≠ tag ∨ e.copy ≠ copy := by
  rw [isOf_iff, not_and_or]

theorem none_isOf_iff {cuts : List CutEntry} {tag : Word16} {copy : Nat} :
    (cuts.any fun x => x.isOf tag copy) = false ↔ ∀ x ∈ cuts, x.tag ≠ tag ∨ x.copy ≠ copy := by
  simp only [List.any_eq_false, not_isOf_iff]

/-! ### CUT DONE (R146) -/

section
variable {s : State} {sv : Service} {src : NodeId} {tag : Word16} {copy : Byte}

theorem exec_cutDone_oldest (h : Serving s sv (.cutDone src tag copy)) (hgood : ¬ (tag = 0 ∨ copy = 0)) {e : CutEntry}
    {rest : List CutEntry} (hcuts : s.wt.cuts = e :: rest) (he : e.isOf tag copy.toNat = true) :
    exec (.cutDone src tag copy) s =
      .next (answer sv .ok (octet rest.length) (settle (s.setWt { s.wt with cuts := rest }))) :=
  next_of_serving h ((if_neg hgood).trans (by simp only [hcuts]; exact if_pos he))

theorem exec_cutDone_outOfSequence (h : Serving s sv (.cutDone src tag copy)) (hgood : ¬ (tag = 0 ∨ copy = 0)) {e : CutEntry}
    {rest : List CutEntry} (hcuts : s.wt.cuts = e :: rest) (he : ¬ e.isOf tag copy.toNat = true)
    (hrest : (rest.any fun x => x.isOf tag copy.toNat) = true) :
    exec (.cutDone src tag copy) s = .next (answer sv .outOfSequence (octets16 e.tag ++ octet e.copy) s) :=
  next_of_serving h ((if_neg hgood).trans (by simp only [hcuts]; exact (if_neg he).trans (if_pos hrest)))

theorem exec_cutDone_notFound (h : Serving s sv (.cutDone src tag copy)) (hgood : ¬ (tag = 0 ∨ copy = 0))
    (hnone : (s.wt.cuts.any fun x => x.isOf tag copy.toNat) = false) :
    exec (.cutDone src tag copy) s = .next (answer sv .notFound [] s) := by
  refine next_of_serving h ((if_neg hgood).trans ?_)
  cases hcuts : s.wt.cuts with
  | nil => rfl
  | cons e rest =>
    rw [hcuts, List.any_cons, Bool.or_eq_false_iff] at hnone
    obtain ⟨he, hrest⟩ := hnone
    simp only [he, hrest, Bool.false_eq_true, if_false]

end

/-- Settles O53: the tests of R146, the entry by whether it is the oldest, another one, or none. -/
theorem cutDoneRemovesOldest : Obligations.CutDoneRemovesOldest := by
  intro s sv src tag copy h
  refine ⟨fun hbad => next_of_serving h (if_pos hbad), fun htag hcopy => ?_⟩
  have hgood : ¬ (tag = 0 ∨ copy = 0) := not_or.mpr ⟨htag, hcopy⟩
  refine ⟨fun e rest hcuts hetag hecopy => ⟨_, exec_cutDone_oldest h hgood hcuts (isOf_iff.mpr ⟨hetag, hecopy⟩), ?oldest⟩,
    fun e rest x hcuts he hmem hxtag hxcopy => exec_cutDone_outOfSequence h hgood hcuts (not_isOf_iff.mpr he) ?other,
    fun hnone => exec_cutDone_notFound h hgood (none_isOf_iff.mpr hnone)⟩
  case oldest => simp [answer_lp]
  case other => exact List.any_eq_true.mpr ⟨x, hmem, isOf_iff.mpr ⟨hxtag, hxcopy⟩⟩

/-! ### The splice-late mark (R41, R150) -/

theorem mem_addPending {copy x : Nat} {late : List Nat} : x ∈ addPending copy late ↔ x = copy ∨ x ∈ late := by
  induction late with
  | nil => simp only [addPending, List.mem_singleton, List.not_mem_nil, or_false]
  | cons c rest ih =>
    rw [addPending]
    split
    · exact List.mem_cons
    · split
      · next heq => simp only [heq, List.mem_cons, or_self_left]
      · rw [List.mem_cons, List.mem_cons, ih, or_left_comm]

section
variable {s : State} {tag : Word16} {copy : Nat}

theorem lateCopy_eq (s : State) :
    s.lateCopy = (s.sw.newestTaken.map fun r => (r.tag, r.copy)).or s.wt.newest := by
  unfold State.lateCopy
  cases s.sw.newestTaken <;> rfl

theorem markLate_of_none (h : s.lateCopy = none) : markLate s = s := by
  rw [markLate, h]

/-- A copy with an entry in the cut list is marked there, at its newest entry. -/
theorem markLate_of_cut (h : s.lateCopy = some (tag, copy)) {before behind : List CutEntry} {e : CutEntry}
    (hcuts : s.wt.cuts = before ++ e :: behind) (he : e.isOf tag copy = true)
    (hbehind : (behind.any fun x => x.isOf tag copy) = false) :
    markLate s = s.setWt { s.wt with cuts := before ++ { e with spliceLate := true } :: behind } := by
  have hany : (s.wt.cuts.any fun x => x.isOf tag copy) = true := by
    rw [hcuts]
    exact List.any_eq_true.mpr ⟨e, List.mem_append_right _ List.mem_cons_self, he⟩
  rw [markLate, h]
  refine (if_pos hany).trans ?_
  rw [hcuts, markCut_newest before he hbehind]

/-- A copy without an entry in the cut list is marked in its order. -/
theorem markLate_of_queued (h : s.lateCopy = some (tag, copy)) (hnone : (s.wt.cuts.any fun x => x.isOf tag copy) = false) :
    markLate s = s.setQueue (updateOrder s.queue tag fun o => o.markLate copy) := by
  rw [markLate, h]
  exact if_neg (Bool.eq_false_iff.mp hnone)

end

/-! ### REPORT SPLICE (R148, R149) -/

/-- Outside STANDBY a cause joins the set, and the run halts or has halted (R99). -/
theorem raiseCause_of_not_standby {s : State} (h : s.rc.state ≠ .standby) (c : Cause) :
    (raiseCause c s).rc.causes = s.rc.causes ||| c.bit ∧ (s.rc.state = .halted → (raiseCause c s).rc.state = .halted) ∧
      (s.rc.state ≠ .halted → (raiseCause c s).rc.state = .halting) := by
  by_cases hhalted : s.rc.state = .halted
  · rw [raiseCause_of_halted c hhalted]
    exact ⟨rfl, fun hs => hs, fun hs => absurd hhalted hs⟩
  · have hraises : breakRaises s.rc.state = true := by
      revert h hhalted
      cases s.rc.state <;> decide
    obtain ⟨hcauses, hstate⟩ := raiseCause_of_breakRaises hraises c
    exact ⟨hcauses, fun hs => absurd hs hhalted, fun _ => hstate⟩

/-- The part with the zone of a reported splice in its list (R148). -/
def State.withZone (s : State) (web : Word32) : State :=
  s.setWt { s.wt with zones := s.wt.zones ++ [spliceZone web s.st.working.spliceHalf] }

/-- The zone starts at or before the newest head-taken web position (R149). -/
def State.spliceIsLate (s : State) (web : Word32) : Bool :=
  !liesAfter (spliceZone web s.st.working.spliceHalf).first s.newestTakenWeb

/-- What the answer to a stored splice carries (chapter 11). -/
def State.spliceOctets (s : State) (web : Word32) : List Byte :=
  let z := spliceZone web s.st.working.spliceHalf
  octets32 z.first ++ octets32 z.last ++ octet (s.wt.zones.length + 1)

/-- The part after a late splice, before its answer (R149, R150). -/
def State.lateSpliced (s : State) (web : Word32) : State := markLate (raiseCause .spliceLate (s.withZone web))

section
variable {s : State} {sv : Service} {src : NodeId} {web : Word32}

theorem exec_reportSplice_stores (h : Serving s sv (.reportSplice src web)) (hstate : s.rc.state ≠ .standby)
    (hroom : s.wt.zones.length < 4) :
    exec (.reportSplice src web) s = .next (answer sv (if s.spliceIsLate web then .okLate else .ok) (s.spliceOctets web)
      (if s.spliceIsLate web then s.lateSpliced web else s.withZone web)) := by
  refine next_of_serving h ((if_neg hstate).trans ((if_neg (Nat.not_le.mpr hroom)).trans ?_))
  simp only [List.length_append, List.length_singleton]
  rfl

theorem exec_reportSplice_full (h : Serving s sv (.reportSplice src web)) (hstate : s.rc.state ≠ .standby)
    (hfull : 4 ≤ s.wt.zones.length) :
    exec (.reportSplice src web) s =
      .next (answer sv .full (s.wt.zones.flatMap fun z => octets32 z.last) (spliceOverflow s)) :=
  next_of_serving h ((if_neg hstate).trans (if_pos hfull))

/-- The copy marked is that of before the request: neither the zone nor the cause reaches what it is read from. -/
theorem lateCopy_raised : (raiseCause .spliceLate (s.withZone web)).lateCopy = s.lateCopy := by
  rw [lateCopy_eq, lateCopy_eq, raiseCause_sw, raiseCause_wt]
  rfl

theorem cuts_raised : (raiseCause .spliceLate (s.withZone web)).wt.cuts = s.wt.cuts := by
  rw [raiseCause_wt]
  rfl

theorem queue_raised : (raiseCause .spliceLate (s.withZone web)).queue = s.queue := by
  rw [raiseCause_queue]
  rfl

theorem lateSpliced_zones : (s.lateSpliced web).wt.zones = s.wt.zones ++ [spliceZone web s.st.working.spliceHalf] := by
  obtain ⟨-, -, -, -, hzones⟩ := markLate_keeps (raiseCause .spliceLate (s.withZone web))
  rw [State.lateSpliced, hzones, raiseCause_wt]
  rfl

/-- A late splice leaves the window, the groups and the general places. -/
theorem lateSpliced_same :
    (s.lateSpliced web).sw = s.sw ∧ (s.lateSpliced web).gh = s.gh ∧ (s.lateSpliced web).lp.general = s.lp.general := by
  obtain ⟨-, hsw, hgh, hlp, -⟩ := markLate_keeps (raiseCause .spliceLate (s.withZone web))
  rw [State.lateSpliced, hsw, hgh, hlp, raiseCause_sw, raiseCause_gh, raiseCause_lp_general]
  exact ⟨rfl, rfl, rfl⟩

/-- A late splice raises SPLICE_LATE (R149). -/
theorem lateSpliced_rc (hstate : s.rc.state ≠ .standby) :
    (s.lateSpliced web).rc.causes = s.rc.causes ||| 0x0010 ∧
      (s.rc.state = .halted → (s.lateSpliced web).rc.state = .halted) ∧
      (s.rc.state ≠ .halted → (s.lateSpliced web).rc.state = .halting) := by
  obtain ⟨hrc, -⟩ := markLate_keeps (raiseCause .spliceLate (s.withZone web))
  rw [State.lateSpliced, hrc]
  exact raiseCause_of_not_standby (s := s.withZone web) hstate .spliceLate

theorem lateSpliced_of_none (h : s.lateCopy = none) :
    (s.lateSpliced web).wt.cuts = s.wt.cuts ∧ (s.lateSpliced web).queue = s.queue := by
  rw [State.lateSpliced, markLate_of_none (lateCopy_raised.trans h)]
  exact ⟨cuts_raised, queue_raised⟩

section
variable {tag : Word16} {copy : Nat}

theorem lateSpliced_of_cut (h : s.lateCopy = some (tag, copy)) {before behind : List CutEntry} {e : CutEntry}
    (hcuts : s.wt.cuts = before ++ e :: behind) (he : e.isOf tag copy = true)
    (hbehind : (behind.any fun x => x.isOf tag copy) = false) :
    (s.lateSpliced web).wt.cuts = before ++ { e with spliceLate := true } :: behind ∧ (s.lateSpliced web).queue = s.queue := by
  rw [State.lateSpliced, markLate_of_cut (lateCopy_raised.trans h) (cuts_raised.trans hcuts) he hbehind]
  exact ⟨rfl, queue_raised⟩

theorem lateSpliced_of_queued (h : s.lateCopy = some (tag, copy))
    (hnone : (s.wt.cuts.any fun x => x.isOf tag copy) = false) :
    (s.lateSpliced web).wt.cuts = s.wt.cuts ∧
      (s.lateSpliced web).queue = updateOrder s.queue tag fun o => o.markLate copy := by
  rw [State.lateSpliced, markLate_of_queued (lateCopy_raised.trans h) (by rw [cuts_raised]; exact hnone), queue_raised]
  exact ⟨cuts_raised, rfl⟩

end

/-- A full list changes no block but Run Control and the Line Port, and of the latter not the general places (R148). -/
theorem spliceOverflow_same : (spliceOverflow s).wt = s.wt ∧ (spliceOverflow s).sw = s.sw ∧
    (spliceOverflow s).queue = s.queue ∧ (spliceOverflow s).lp.general = s.lp.general := by
  unfold spliceOverflow
  split <;> simp

theorem spliceOverflow_of_sewing (h : s.rc.state = .priming ∨ s.rc.state = .run) :
    spliceOverflow s = enterHalting .spliceOverflow s := by
  rw [← raiseCause_of_sewing .spliceOverflow h]
  rcases h with h | h <;> rw [spliceOverflow, h]

theorem spliceOverflow_of_stopped (h : s.rc.state = .halting ∨ s.rc.state = .halted) : spliceOverflow s = s := by
  rcases h with h | h <;> rw [spliceOverflow, h]

end

/-- Settles O54: a stored splice by whether it is late and by where its copy is marked, then the full list by the run state. -/
theorem spliceIsReported : Obligations.SpliceIsReported := by
  intro s sv src web h
  refine ⟨fun hstandby => next_of_serving h (if_pos hstandby), fun hstate hroom => ?stored,
    fun copy late x => mem_addPending, fun hstate hfull => ⟨_, exec_reportSplice_full h hstate hfull, ?full⟩⟩
  case stored =>
    intro first last octets newest startLiesAfter
    have hexec := exec_reportSplice_stores h hstate hroom
    have hlate : s.spliceIsLate web = !startLiesAfter := by
      simp only [startLiesAfter, newest, Option.map_map]
      rfl
    have hcopy : (newest.map Prod.snd).or s.wt.newest = s.lateCopy := by
      rw [lateCopy_eq]
      simp only [newest, Option.map_map]
      rfl
    rw [hcopy]
    refine ⟨fun hafter => ?inTime, fun hnot => ?late⟩
    case inTime =>
      rw [hlate, hafter] at hexec
      exact hexec
    case late =>
      rw [hlate, hnot] at hexec
      obtain ⟨hsw, hgh, hgeneral⟩ := lateSpliced_same (s := s) (web := web)
      obtain ⟨hcauses, hhalted, hhalting⟩ := lateSpliced_rc (web := web) hstate
      refine ⟨_, hexec, lateSpliced_zones, hcauses, hhalted, hhalting, hsw, hgh, ?answered, lateSpliced_of_none,
        fun tag copy hnamed => ⟨fun before e behind hcuts htag hnum hbehind => ?cut, fun hnone => ?queued⟩⟩
      case answered => exact congrArg (· ++ _) hgeneral
      case cut => exact lateSpliced_of_cut hnamed hcuts (isOf_iff.mpr ⟨htag, hnum⟩) (none_isOf_iff.mpr hbehind)
      case queued => exact lateSpliced_of_queued hnamed (none_isOf_iff.mpr hnone)
  case full =>
    obtain ⟨hwt, hsw, hqueue, hgeneral⟩ := spliceOverflow_same (s := s)
    refine ⟨hwt, hsw, hqueue, congrArg (· ++ _) hgeneral, fun hsewing => ?halts, fun hstopped => ?stays⟩
    case halts =>
      rw [answer_rc, spliceOverflow_of_sewing hsewing]
      exact ⟨rfl, rfl⟩
    case stays => rw [answer_rc, spliceOverflow_of_stopped hstopped]

end Sys2Proof.Machine
end

section
/-! SUPPORT. Cells as they are read, and the line as the filter shows it: a dominant too short to be seen is left out, and a gap
too short to be seen joins the dominants around it. -/

namespace Sys2Proof.Machine

/-! ### Reading a cell (R153) -/

theorem edgeInTime_iff (cellTime dominant next : Nat) : edgeInTime cellTime ⟨dominant, some next⟩ = true ↔
    85 * (10 * cellTime) ≤ next ∧ next ≤ 125 * (10 * cellTime) := by
  rw [edgeInTime, Bool.and_eq_true, decide_eq_true_iff, decide_eq_true_iff, hundredth]

theorem edgeNotEarly_iff (cellTime dominant next : Nat) : edgeNotEarly cellTime ⟨dominant, some next⟩ = true ↔
    85 * (10 * cellTime) ≤ next := decide_eq_true_iff

/-- The reading by the dominant alone: what a cell is read as whose edges are in time. -/
def readDominant (cellTime dominant : Nat) : Option Bool :=
  if 12 * hundredth cellTime ≤ dominant ∧ dominant ≤ 38 * hundredth cellTime then some true
  else if 50 * hundredth cellTime ≤ dominant ∧ dominant ≤ 80 * hundredth cellTime then some false
  else none

theorem readCell_eq (cellTime : Nat) (c : LineCell) (final : Bool) : readCell cellTime c final =
    if (if final then edgeNotEarly cellTime c else edgeInTime cellTime c) = false then none
    else readDominant cellTime c.dominant := rfl

theorem readCell_of_inTime {cellTime dominant next : Nat} (hearliest : 85 * (10 * cellTime) ≤ next)
    (hlatest : next ≤ 125 * (10 * cellTime)) :
    readCell cellTime ⟨dominant, some next⟩ false = readDominant cellTime dominant := by
  have hedge := (edgeInTime_iff cellTime dominant next).2 ⟨hearliest, hlatest⟩
  simp [readCell_eq, hedge]

theorem readCell_of_notInTime {cellTime dominant next : Nat}
    (h : next < 85 * (10 * cellTime) ∨ 125 * (10 * cellTime) < next) :
    readCell cellTime ⟨dominant, some next⟩ false = none := by
  have hedge : edgeInTime cellTime ⟨dominant, some next⟩ = false := by
    rw [← Bool.not_eq_true, edgeInTime_iff]
    omega
  simp [readCell_eq, hedge]

/-- The final cell of a frame needs no edge after it. -/
theorem readCell_final_none (cellTime dominant : Nat) :
    readCell cellTime ⟨dominant, none⟩ true = readDominant cellTime dominant := rfl

theorem readCell_final_of_notEarly {cellTime dominant next : Nat} (h : 85 * (10 * cellTime) ≤ next) :
    readCell cellTime ⟨dominant, some next⟩ true = readDominant cellTime dominant := by
  have hedge := (edgeNotEarly_iff cellTime dominant next).2 h
  simp [readCell_eq, hedge]

theorem readCell_final_of_early {cellTime dominant next : Nat} (h : next < 85 * (10 * cellTime)) :
    readCell cellTime ⟨dominant, some next⟩ true = none := by
  have hedge : edgeNotEarly cellTime ⟨dominant, some next⟩ = false := by
    rw [← Bool.not_eq_true, edgeNotEarly_iff]
    omega
  simp [readCell_eq, hedge]

theorem readDominant_one {cellTime dominant : Nat} (hleast : 12 * (10 * cellTime) ≤ dominant)
    (hmost : dominant ≤ 38 * (10 * cellTime)) : readDominant cellTime dominant = some true :=
  if_pos ⟨hleast, hmost⟩

theorem readDominant_zero {cellTime dominant : Nat} (hcell : 4 ≤ cellTime) (hleast : 50 * (10 * cellTime) ≤ dominant)
    (hmost : dominant ≤ 80 * (10 * cellTime)) : readDominant cellTime dominant = some false := by
  have hone : ¬ (12 * (10 * cellTime) ≤ dominant ∧ dominant ≤ 38 * (10 * cellTime)) := by omega
  exact (if_neg hone).trans (if_pos ⟨hleast, hmost⟩)

theorem readDominant_error {cellTime dominant : Nat}
    (h : dominant < 12 * (10 * cellTime) ∨ 38 * (10 * cellTime) < dominant ∧ dominant < 50 * (10 * cellTime) ∨
      80 * (10 * cellTime) < dominant) : readDominant cellTime dominant = none := by
  have hone : ¬ (12 * (10 * cellTime) ≤ dominant ∧ dominant ≤ 38 * (10 * cellTime)) := by omega
  have hzero : ¬ (50 * (10 * cellTime) ≤ dominant ∧ dominant ≤ 80 * (10 * cellTime)) := by omega
  exact (if_neg hone).trans (if_neg hzero)

/-! ### The line filter (R152) -/

theorem shortLevel_iff (ns : Nat) : shortLevel ns = true ↔ ns < 2000 := decide_eq_true_iff

theorem shortLevel_of_short {ns : Nat} (h : ns < 2000) : shortLevel ns = true := (shortLevel_iff ns).2 h

theorem shortLevel_of_long {ns : Nat} (h : 2000 ≤ ns) : shortLevel ns = false :=
  Bool.eq_false_iff.2 fun hshort => absurd ((shortLevel_iff ns).1 hshort) (Nat.not_lt.2 h)

/-- Both levels of the cell are long enough to be seen with the filter on. -/
def LongLevels (c : LineCell) : Prop := 2000 ≤ c.dominant ∧ ∀ n, c.next = some n → 2000 ≤ n - c.dominant

theorem LongLevels.dominant {c : LineCell} (h : LongLevels c) : shortLevel c.dominant = false := shortLevel_of_long h.1

theorem LongLevels.gap {c : LineCell} (h : LongLevels c) : gapShort c = false := by
  obtain ⟨dominant, next⟩ := c
  cases next with
  | none => rfl
  | some n => exact shortLevel_of_long (h.2 n rfl)

theorem seenLine_true (w : Wave) : seenLine true w = seenCells (w.mark :: w.cells) := rfl

theorem seenCells_of_short {c : LineCell} (h : shortLevel c.dominant = true) (rest : List LineCell) :
    seenCells (c :: rest) = seenCells rest := if_pos h

theorem seenCells_of_seen {c : LineCell} (h : shortLevel c.dominant = false) (rest : List LineCell) :
    seenCells (c :: rest) = seenAfter c rest := if_neg (Bool.eq_false_iff.1 h)

/-- The filter changes nothing on a line of long levels. -/
theorem seenLine_of_longLevels {w : Wave} (h : ∀ c ∈ w.mark :: w.cells, LongLevels c) :
    seenLine true w = w.mark :: w.cells := by
  rw [seenLine_true, seenCells_of_seen (h w.mark List.mem_cons_self).dominant]
  exact seenAfter_of_long w.mark w.cells fun c hc => ⟨(h c hc).dominant, (h c hc).gap⟩

/-- A dominant that is not seen leaves the recessive around it in one. -/
theorem seenAfter_of_shortDominant {c d : LineCell} (hgap : gapShort c = false) (hshort : shortLevel d.dominant = true)
    (rest : List LineCell) : seenAfter c (d :: rest) = seenAfter (takeIn c d false) rest := by
  rw [seenAfter, if_neg (Bool.eq_false_iff.1 hgap), if_pos hshort]

/-- A gap that is not seen leaves the dominants around it in one. -/
theorem seenAfter_of_shortGap {c : LineCell} (hgap : gapShort c = true) (d : LineCell) (rest : List LineCell) :
    seenAfter c (d :: rest) = seenAfter (takeIn c d true) rest := by
  rw [seenAfter, if_pos hgap]

/-- Settles O7: a cell by its dominant once its edges are in time, the filter by the level that is too short to be seen. -/
theorem cellReading : Obligations.CellReading := by
  refine ⟨fun cellTime dominant next hcell hearliest hlatest => ?read, fun _ _ _ => readCell_of_notInTime,
    fun cellTime dominant next hcell => ?final, fun w => rfl, fun w => seenLine_of_longLevels,
    fun m d d' e n rest hshort hdominant hnext hgap => ?dominantHidden,
    fun m d e n rest hdominant hnext hedge hshort => ?gapHidden⟩
  case read =>
    rw [readCell_of_inTime hearliest hlatest]
    exact ⟨readDominant_one, readDominant_zero hcell, readDominant_error⟩
  case final =>
    rw [readCell_final_none, readCell_of_inTime (by omega) (by omega)]
    exact ⟨rfl, readCell_final_of_notEarly, readCell_final_of_early⟩
  case dominantHidden =>
    obtain ⟨dominant, next⟩ := m
    obtain rfl : next = some e := hnext
    have hseen : shortLevel dominant = false := shortLevel_of_long hdominant
    have hlong : gapShort ⟨dominant, some e⟩ = false := shortLevel_of_long hgap
    refine ⟨?_, seenCells_of_short (shortLevel_of_short hshort) _⟩
    calc seenLine true ⟨⟨dominant, some e⟩, ⟨d, some d'⟩ :: rest⟩
        = seenAfter ⟨dominant, some e⟩ (⟨d, some d'⟩ :: rest) := seenCells_of_seen hseen _
      _ = seenAfter ⟨dominant, some (e + d')⟩ rest :=
          seenAfter_of_shortDominant hlong (shortLevel_of_short hshort) rest
      _ = seenLine true ⟨⟨dominant, some (e + d')⟩, rest⟩ := (seenCells_of_seen hseen rest).symm
  case gapHidden =>
    obtain ⟨dominant, next⟩ := m
    obtain rfl : next = some e := hnext
    have hjoined : 2000 ≤ e + d := by omega
    have hhidden : gapShort ⟨dominant, some e⟩ = true := shortLevel_of_short hshort
    calc seenLine true ⟨⟨dominant, some e⟩, ⟨d, n⟩ :: rest⟩
        = seenAfter ⟨dominant, some e⟩ (⟨d, n⟩ :: rest) := seenCells_of_seen (shortLevel_of_long hdominant) _
      _ = seenAfter ⟨e + d, n.map fun u => e + u⟩ rest := seenAfter_of_shortGap hhidden _ rest
      _ = seenLine true ⟨⟨e + d, n.map fun u => e + u⟩, rest⟩ :=
          (seenCells_of_seen (shortLevel_of_long hjoined) rest).symm

end Sys2Proof.Machine
end

section
/-! SUPPORT. Requests and their frames: a frame is read back as the request it was made of, and is read at all by its code and its
number of parameter octets. -/

namespace Sys2Proof

/-! ### Reading back (R155) -/

/-- The frame of a command, where it has one, is read back as the command. -/
def ReadBack (c : Instr) : Prop := ∀ r, encodeRequest c = some r → decodeRequest r = some c

theorem readBack_of_none {c : Instr} (h : encodeRequest c = none) : ReadBack c := fun _ hr => absurd (h ▸ hr) (by simp)

theorem readBack_of_frame {c : Instr} {r : RequestFrame} (he : encodeRequest c = some r) (hd : decodeRequest r = some c) :
    ReadBack c := fun r' hr => by
  obtain rfl : r = r' := Option.some.inj (he.symm.trans hr)
  exact hd

/-- A request of one word of four octets. -/
theorem readBack_of_word32 {src : NodeId} {code : Byte} (request : Word32 → Instr) (x : Word32)
    (he : encodeRequest (request x) = some ⟨src, code, octets32 x⟩)
    (hd : ∀ a b c d, decodeRequest ⟨src, code, [a, b, c, d]⟩ = some (request (word32 a b c d))) : ReadBack (request x) :=
  readBack_of_frame he ((hd _ _ _ _).trans (congrArg (some ∘ request) (word32_octets x)))

/-- A request of one word of two octets and further octets behind it. -/
theorem readBack_of_word16 {src : NodeId} {code : Byte} (request : Word16 → Instr) (x : Word16) (rest : List Byte)
    (he : encodeRequest (request x) = some ⟨src, code, octets16 x ++ rest⟩)
    (hd : ∀ a b, decodeRequest ⟨src, code, a :: b :: rest⟩ = some (request (word16 a b))) : ReadBack (request x) :=
  readBack_of_frame he ((hd _ _).trans (congrArg (some ∘ request) (word16_octets x)))

theorem readBack_enqueue (src : NodeId) (tag : Word16) (slot : Byte) (length gap : Word16) (mode stitch : Byte)
    (start : Word16) (groups : Word32) (tackCount tackLength copies : Byte) :
    ReadBack (.enqueue src tag slot length gap mode stitch start groups tackCount tackLength copies) := by
  refine readBack_of_frame rfl ?_
  conv_rhs =>
    rw [← word16_octets tag, ← word16_octets length, ← word16_octets gap, ← word16_octets start, ← word32_octets groups]
  rfl

/-- Settles O3: commands that are no requests, requests of octets alone, and requests whose words come apart into octets. -/
theorem requestFramesRoundTrip : Obligations.RequestFramesRoundTrip := fun c => show ReadBack c from
  match c with
  | .powerOn | .resetnAssert _ | .resetnRelease | .needleUp _ | .holdSeenChange _ _ | .stopSilenceExpiry | .resumeSettleEnd
  | .expansionEvent | .programStepComplete _ _ | .eraseComplete _ | .boundExpiry _ | .progressIntervalEnd | .readComplete
  | .inboundFrame _ | .lineIdle _ | .frameHandOn | .frameStart | .frameDelivered _ | .arbitrationLost _ | .errorAbort _
  | .resetPartApply | .frameNotForPart _ | .notAStartMark _ | .powerOff _ => readBack_of_none rfl
  | .loadBuffer _ _ _ | .clearBuffer _ | .commitPage _ _ _ | .eraseSlot _ _ | .closeSlot _ _ | .readLibrary _ _ _ _ _
  | .readOutcome _ | .readQueue _ | .start _ | .stop _ | .endRun _ | .resume _ | .abort _ | .reportStopped _ | .readStatus _ _
  | .readCounters _ _ | .clearCounters _ | .backstitch _ _ | .readHistory _ _ | .cutQuery _ | .setSetting _ _ _ | .setRole _ _ _
  | .writeSetup _ | .reloadSetup _ | .resetPart _ | .readSetting _ _ | .readTable _ => readBack_of_frame rfl rfl
  | .takeHead src x => readBack_of_word32 (.takeHead src) x rfl fun _ _ _ _ => rfl
  | .takeFeed src x => readBack_of_word32 (.takeFeed src) x rfl fun _ _ _ _ => rfl
  | .reportMoved src x => readBack_of_word32 (.reportMoved src) x rfl fun _ _ _ _ => rfl
  | .reportBreak src x => readBack_of_word32 (.reportBreak src) x rfl fun _ _ _ _ => rfl
  | .reportMended src x => readBack_of_word32 (.reportMended src) x rfl fun _ _ _ _ => rfl
  | .park src x => readBack_of_word32 (.park src) x rfl fun _ _ _ _ => rfl
  | .unpark src x => readBack_of_word32 (.unpark src) x rfl fun _ _ _ _ => rfl
  | .reportSplice src x => readBack_of_word32 (.reportSplice src) x rfl fun _ _ _ _ => rfl
  | .cancel src tag => readBack_of_word16 (.cancel src) tag [] rfl fun _ _ => rfl
  | .clearCauses src causes => readBack_of_word16 (.clearCauses src) causes [] rfl fun _ _ => rfl
  | .readOrder src tag part => readBack_of_word16 (.readOrder src · part) tag [part] rfl fun _ _ => rfl
  | .cutDone src tag copy => readBack_of_word16 (.cutDone src · copy) tag [copy] rfl fun _ _ => rfl
  | .enqueue src tag slot length gap mode stitch start groups tackCount tackLength copies =>
    readBack_enqueue src tag slot length gap mode stitch start groups tackCount tackLength copies

/-! ### The number of parameter octets (R177) -/

/-- The list has the given length. -/
def hasLength : Nat → List Byte → Bool
  | 0, [] => true
  | n + 1, _ :: rest => hasLength n rest
  | _, _ => false

theorem hasLength_iff {n : Nat} {params : List Byte} : hasLength n params = true ↔ params.length = n := by
  induction n generalizing params with
  | zero => cases params <;> simp [hasLength]
  | succ n ih =>
    cases params with
    | nil => simp [hasLength]
    | cons a rest => rw [hasLength, ih, List.length_cons, Nat.succ_inj]

section
variable {src : NodeId} {code : Byte} {params : List Byte}

theorem isSome_decodeRequest_zero
    (h : code ∈ [0x02, 0x07, 0x12, 0x30, 0x31, 0x32, 0x33, 0x34, 0x36, 0x39, 0x50, 0x62, 0x63, 0x64, 0x66]) :
    (decodeRequest ⟨src, code, params⟩).isSome = hasLength 0 params := by
  simp only [List.mem_cons, List.not_mem_nil, or_false] at h
  rcases params with _ | ⟨_, _⟩ <;>
    rcases h with rfl | rfl | rfl | rfl | rfl | rfl | rfl | rfl | rfl | rfl | rfl | rfl | rfl | rfl | rfl <;> rfl

theorem isSome_decodeRequest_one (h : code ∈ [0x04, 0x05, 0x37, 0x38, 0x44, 0x45, 0x65]) :
    (decodeRequest ⟨src, code, params⟩).isSome = hasLength 1 params := by
  simp only [List.mem_cons, List.not_mem_nil, or_false] at h
  rcases params with _ | ⟨_, _ | ⟨_, _⟩⟩ <;> rcases h with rfl | rfl | rfl | rfl | rfl | rfl | rfl <;> rfl

theorem isSome_decodeRequest_two (h : code ∈ [0x03, 0x11, 0x35, 0x61]) :
    (decodeRequest ⟨src, code, params⟩).isSome = hasLength 2 params := by
  simp only [List.mem_cons, List.not_mem_nil, or_false] at h
  rcases params with _ | ⟨_, _ | ⟨_, _ | ⟨_, _⟩⟩⟩ <;> rcases h with rfl | rfl | rfl | rfl <;> rfl

theorem isSome_decodeRequest_three (h : code ∈ [0x13, 0x51]) :
    (decodeRequest ⟨src, code, params⟩).isSome = hasLength 3 params := by
  simp only [List.mem_cons, List.not_mem_nil, or_false] at h
  rcases params with _ | ⟨_, _ | ⟨_, _ | ⟨_, _ | ⟨_, _⟩⟩⟩⟩ <;> rcases h with rfl | rfl <;> rfl

theorem isSome_decodeRequest_four (h : code ∈ [0x06, 0x20, 0x21, 0x22, 0x40, 0x41, 0x42, 0x43, 0x52]) :
    (decodeRequest ⟨src, code, params⟩).isSome = hasLength 4 params := by
  simp only [List.mem_cons, List.not_mem_nil, or_false] at h
  rcases params with _ | ⟨_, _ | ⟨_, _ | ⟨_, _ | ⟨_, _ | ⟨_, _⟩⟩⟩⟩⟩ <;>
    rcases h with rfl | rfl | rfl | rfl | rfl | rfl | rfl | rfl | rfl <;> rfl

theorem isSome_decodeRequest_enqueue : (decodeRequest ⟨src, 0x10, params⟩).isSome = hasLength 18 params := by
  rcases params with _ | ⟨_, _ | ⟨_, _ | ⟨_, _ | ⟨_, _ | ⟨_, _ | ⟨_, _ | ⟨_, _ | ⟨_, _ | ⟨_, _ | ⟨_, _ | ⟨_, _ | ⟨_, _ | ⟨_,
    _ | ⟨_, _ | ⟨_, _ | ⟨_, _ | ⟨_, _ | ⟨_, _ | ⟨_, _⟩⟩⟩⟩⟩⟩⟩⟩⟩⟩⟩⟩⟩⟩⟩⟩⟩⟩⟩ <;> rfl

/-- LOAD BUFFER and SET SETTING carry at least the offset or the setting code. -/
theorem isSome_decodeRequest_atLeastOne (h : code ∈ [0x01, 0x60]) :
    (decodeRequest ⟨src, code, params⟩).isSome = true ↔ 1 ≤ params.length := by
  simp only [List.mem_cons, List.not_mem_nil, or_false] at h
  rcases params with _ | ⟨_, rest⟩
  · exact iff_of_false (by rcases h with rfl | rfl <;> exact Bool.false_ne_true) (Nat.not_succ_le_zero 0)
  · exact iff_of_true (by rcases h with rfl | rfl <;> rfl) (Nat.le_add_left 1 rest.length)

end

end Sys2Proof
end

section
/-! SUPPORT. The role check: what becomes of a frame that is handed on, outcome by outcome, and which roles each request
permits. -/

namespace Sys2Proof.Machine

/-! ### The outcomes of the role check (R161) -/

section
variable (s : State) {r : RequestFrame}

theorem handOn_of_unknown (h : permittedRoles r.code = none) : handOn r s = s.setLp
    (s.lp.answerTo r.src (roleOfNode s.st.working.roles r.src.toNat) .unknownRequest [r.code] .none) := by
  rw [handOn, h]

variable {permitted : List Role} (hcode : permittedRoles r.code = some permitted)
include hcode

theorem handOn_of_noEntry (h : roleOfNode s.st.working.roles r.src.toNat = none) :
    handOn r s = s.setLp (s.lp.answerTo r.src none .refusedRole [0] .none) := by
  rw [handOn, hcode, h]

variable {role : Role} (hrole : roleOfNode s.st.working.roles r.src.toNat = some role)
include hrole

theorem handOn_of_notPermitted (h : role ∉ permitted) :
    handOn r s = s.setLp (s.lp.answerTo r.src (some role) .refusedRole [role.code] .none) := by
  rw [handOn, hcode, hrole]
  exact if_neg h

variable (hpermitted : role ∈ permitted)
include hpermitted

theorem handOn_of_badParam (h : decodeRequest r = none) :
    handOn r s = s.setLp (s.lp.answerTo r.src (some role) .badParam [] .none) := by
  rw [handOn, hcode, hrole, h]
  exact if_pos hpermitted

theorem handOn_of_request {c : Instr} (h : decodeRequest r = some c) :
    handOn r s = s.setLp { s.lp with service := some ⟨c, r.src, role, .handed⟩ } := by
  rw [handOn, hcode, hrole, h]
  exact if_pos hpermitted

end

/-! ### FRAME_HAND_ON (R160) -/

theorem canHandOn_of {s : State} (hservice : s.lp.service = none) (hreset : s.lp.resetPart = .none)
    (hgeneral : s.lp.general.length < 5) : s.canHandOn = true := by
  have hfree : s.lp.placeFree = true := (placeFree_iff s.lp).2 (by rw [hservice]; exact hgeneral)
  simp [State.canHandOn, hservice, hfree, hreset]

/-- The slot of the oldest frame is freed, those behind it stay. -/
def State.slotFreed (s : State) (rest : List RequestFrame) : State := s.setLp { s.lp with inbound := rest }

/-- The oldest frame frees its slot and goes through the role check. -/
theorem exec_frameHandOn {s : State} {r : RequestFrame} {rest : List RequestFrame} (hready : s.ready = true)
    (hinbound : s.lp.inbound = r :: rest) (hcan : s.canHandOn = true) :
    exec .frameHandOn s = .next (handOn r (s.slotFreed rest)) := by
  show execFrameHandOn s = _
  rw [execFrameHandOn, whenReady_of hready, hinbound]
  exact congrArg _ (if_pos hcan)

/-- The answer of the role check, where no request was in service. -/
theorem answerTo_of_noService {s : State} (h : s.lp.service = none) (rest : List RequestFrame) (node : NodeId)
    (role : Option Role) (status : Status) (params : List Byte) :
    (s.slotFreed rest).setLp ((s.slotFreed rest).lp.answerTo node role status params .none) = s.setLp { s.lp with
      inbound := rest
      general := s.lp.general ++ [⟨node, .answer, status.code, params, answerPriority role, 0, .none⟩] } := by
  show s.setLp { s.lp with
    inbound := rest
    service := none
    general := s.lp.general ++ [⟨node, .answer, status.code, params, answerPriority role, 0, .none⟩] } = _
  rw [← h]

/-! ### The permitted roles (R161) -/

/-- The requests that any role may make. -/
theorem permittedRoles_of_any {code : Byte} (h : code ∈ [0x06, 0x07, 0x12, 0x13, 0x37, 0x38, 0x45, 0x65, 0x66]) :
    ∃ permitted, permittedRoles code = some permitted ∧ ∀ role, role ∈ permitted := by
  simp only [List.mem_cons, List.not_mem_nil, or_false] at h
  refine ⟨[.supervisor, .head, .feed, .thread, .cutter, .observer], ?_, fun role => by cases role <;> decide⟩
  rcases h with rfl | rfl | rfl | rfl | rfl | rfl | rfl | rfl | rfl <;> rfl

/-- The codes that name a request are those of the request table. -/
theorem permittedRoles_eq_none_iff (code : Byte) : permittedRoles code = none ↔ code ∉ requestCodes := by
  revert code
  decide +kernel

/-! ### The obligation -/

/-- Settles O58: the hand-on by the outcome of the role check, then the tables of roles and of parameter octets. -/
theorem handOnPassesRoleCheck : Obligations.HandOnPassesRoleCheck := by
  refine ⟨fun s r rest hready hinbound hservice hreset hgeneral => ?outcomes, by decide, fun code => permittedRoles_of_any,
    by decide, by decide, rfl, by decide, rfl, rfl, permittedRoles_eq_none_iff, fun r => ?octets⟩
  case outcomes =>
    have hhanded {t : State} (h : handOn r (s.slotFreed rest) = t) : exec .frameHandOn s = .next t :=
      h ▸ exec_frameHandOn hready hinbound (canHandOn_of hservice hreset hgeneral)
    have hanswer := answerTo_of_noService hservice rest r.src
    refine ⟨fun hcode => hhanded ?unknown, fun permitted hcode => ⟨fun hnone => hhanded ?noEntry, fun role hrole =>
      ⟨fun hrefused => hhanded ?refused, fun hpermitted => ⟨fun hbad => hhanded ?badParam, fun c hc => hhanded ?passed⟩⟩⟩⟩
    case unknown => exact (handOn_of_unknown (s.slotFreed rest) hcode).trans (hanswer ..)
    case noEntry => exact (handOn_of_noEntry (s.slotFreed rest) hcode hnone).trans (hanswer ..)
    case refused => exact (handOn_of_notPermitted (s.slotFreed rest) hcode hrole hrefused).trans (hanswer ..)
    case badParam => exact (handOn_of_badParam (s.slotFreed rest) hcode hrole hpermitted hbad).trans (hanswer ..)
    case passed => exact handOn_of_request (s.slotFreed rest) hcode hrole hpermitted hc
  case octets =>
    refine ⟨fun h => ?_, fun h => ?_, fun h => ?_, fun h => ?_, fun h => ?_, ?_, isSome_decodeRequest_atLeastOne⟩
    · rw [isSome_decodeRequest_zero h, hasLength_iff]
    · rw [isSome_decodeRequest_one h, hasLength_iff]
    · rw [isSome_decodeRequest_two h, hasLength_iff]
    · rw [isSome_decodeRequest_three h, hasLength_iff]
    · rw [isSome_decodeRequest_four h, hasLength_iff]
    · obtain ⟨src, code, params⟩ := r
      rintro rfl
      rw [isSome_decodeRequest_enqueue, hasLength_iff]

end Sys2Proof.Machine
end

section
/-! SUPPORT. A driven frame on the line: the filter shows it as it stands, a receiver reads it octet by octet, and its transmitter
sees it undisturbed. -/

namespace Sys2Proof.Machine

/-! ### Octets and octet slots (R155) -/

@[simp] theorem length_octetBits (x : Byte) : (octetBits x).length = 8 := rfl

theorem octetOfBits_octetBits (x : Byte) : octetOfBits (octetBits x) = x := by
  revert x
  decide +kernel

theorem oddParity_parityBit (x : Byte) : oddParity (octetBits x ++ [parityBit x]) = true := by
  revert x
  decide +kernel

section
variable (dest : NodeId) (free : BitVec 1) (kind : BitVec 2)

theorem octetDestination_append : octetDestination (dest ++ free ++ kind) = dest := by
  revert dest free kind
  decide +kernel

theorem octetKind_append : octetKind (dest ++ free ++ kind) = kind := by
  revert dest free kind
  decide +kernel

end

theorem octetSource_append (priority : BitVec 3) (src : NodeId) : octetSource (priority ++ src) = src := by
  revert priority src
  decide +kernel

/-- The nine cells of an octet and its parity, the LAST mark, and the response cell. -/
theorem driveSlot_eq (cellTime : Nat) (x : Byte) (last acknowledged : Bool) : driveSlot cellTime x last acknowledged =
    (octetBits x ++ [parityBit x]).map (driveCell cellTime · false) ++
      [driveCell cellTime last false, driveCell cellTime (!acknowledged) last] := rfl

theorem driveSlots_cons (cellTime : Nat) (x : Byte) (acknowledged : Bool) (rest : List (Byte × Bool)) :
    driveSlots cellTime ((x, acknowledged) :: rest) =
      driveSlot cellTime x rest.isEmpty acknowledged ++ driveSlots cellTime rest := by
  cases rest with
  | nil => exact (List.append_nil _).symm
  | cons y rest => rfl

theorem length_driveSlots (cellTime : Nat) (octets : List (Byte × Bool)) :
    (driveSlots cellTime octets).length = 11 * octets.length := by
  induction octets with
  | nil => rfl
  | cons y rest ih =>
    rw [driveSlots_cons, List.length_append, ih, List.length_cons, Nat.mul_succ, Nat.add_comm]
    rfl

/-! ### The filter on a driven frame (R152) -/

theorem longLevels_driveCell {cellTime : Nat} (h : 8 ≤ cellTime) (b final : Bool) :
    LongLevels (driveCell cellTime b final) := by
  have hone : 2000 ≤ 25 * (10 * cellTime) ∧ 2000 ≤ 100 * (10 * cellTime) - 25 * (10 * cellTime) := by omega
  have hzero : 2000 ≤ 125 * (10 * cellTime) / 2 ∧ 2000 ≤ 100 * (10 * cellTime) - 125 * (10 * cellTime) / 2 := by omega
  cases b <;> cases final <;> simp [LongLevels, driveCell, hundredth, hone, hzero]

theorem longLevels_of_mem_driveSlots {cellTime : Nat} (h : 8 ≤ cellTime) {octets : List (Byte × Bool)} {c : LineCell}
    (hc : c ∈ driveSlots cellTime octets) : LongLevels c := by
  induction octets with
  | nil => exact absurd hc List.not_mem_nil
  | cons y rest ih =>
    rw [driveSlots_cons, driveSlot_eq] at hc
    simp only [List.mem_append, List.mem_map, List.mem_cons, List.not_mem_nil, or_false] at hc
    rcases hc with (⟨b, -, rfl⟩ | rfl | rfl) | hc
    · exact longLevels_driveCell h _ _
    · exact longLevels_driveCell h _ _
    · exact longLevels_driveCell h _ _
    · exact ih hc

/-- The filter hides nothing of a driven frame, at the cell times that go with it. -/
theorem seenLine_driveFrame {cellTime : Nat} {filter : Bool} (h : filter = true → 8 ≤ cellTime)
    (octets : List (Byte × Bool)) :
    seenLine filter (driveFrame cellTime octets) = (driveFrame cellTime octets).mark :: driveSlots cellTime octets := by
  cases filter with
  | false => rfl
  | true =>
    have hcell : 8 ≤ cellTime := h rfl
    refine seenLine_of_longLevels fun c hc => ?_
    rcases List.mem_cons.1 hc with rfl | hc
    · have hlevels : 2000 ≤ 300 * (10 * cellTime) ∧ 2000 ≤ 400 * (10 * cellTime) - 300 * (10 * cellTime) := by omega
      exact ⟨hlevels.1, fun n hn => Option.some.inj hn ▸ hlevels.2⟩
    · exact longLevels_of_mem_driveSlots hcell hc

theorem startMarkOk_driveFrame (cellTime : Nat) (octets : List (Byte × Bool)) :
    startMarkOk cellTime (driveFrame cellTime octets).mark = true := by
  have hmark : (270 * hundredth cellTime ≤ 300 * hundredth cellTime ∧ 300 * hundredth cellTime ≤ 330 * hundredth cellTime) ∧
      385 * hundredth cellTime ≤ 400 * hundredth cellTime ∧ 400 * hundredth cellTime ≤ 425 * hundredth cellTime := by omega
  show (decide _ && decide _ && (decide _ && decide _)) = true
  simp only [Bool.and_eq_true, decide_eq_true_iff]
  exact hmark

/-! ### Receiving a driven octet (R153, R159) -/

/-- An acknowledgement turns the response cell into a 0. -/
theorem stretched_driveCell (v : Receiver) (acknowledge b final : Bool) :
    stretched v acknowledge (driveCell v.cellTime b final) = driveCell v.cellTime (b && !acknowledge) final := by
  have hmax : max (25 * hundredth v.cellTime) (125 * hundredth v.cellTime / 2) = 125 * hundredth v.cellTime / 2 := by omega
  cases acknowledge <;> cases b <;> simp [stretched, driveCell, hmax]

/-- What a receiver has noted after the octet it judged. -/
def Received.judged (r : Received) (verdict : OctetVerdict) : Received :=
  { r with
    refusals := r.refusals + verdict.refusals
    acknowledged := r.acknowledged ++ [verdict.acknowledge] }

section
variable {v : Receiver} (hcell : 4 ≤ v.cellTime)
include hcell

theorem readCells_driveCells (bits : List Bool) (rest : List LineCell) :
    readCells v bits.length (bits.map (driveCell v.cellTime · false) ++ rest) = some (bits, rest) := by
  induction bits with
  | nil => rfl
  | cons b bits ih =>
    rw [List.map_cons, List.cons_append, List.length_cons, readCells, readCell_driveCell hcell, ih]

/-- A driven octet is read with good parity and judged, and the reception ends with the last one. -/
theorem receiveSlots_driveSlots (n : Nat) (at' : Reception) (x : Byte) (acknowledged : Bool) (rest : List (Byte × Bool))
    (r : Received) : receiveSlots v (n + 1) at' (driveSlots v.cellTime ((x, acknowledged) :: rest)) r =
      let verdict := judgeOctet v at' x true rest.isEmpty
      if rest.isEmpty then { r.judged verdict with frame := verdict.next.complete }
      else receiveSlots v n verdict.next (driveSlots v.cellTime rest) (r.judged verdict) := by
  have hnine := readCells_driveCells hcell (octetBits x ++ [parityBit x])
    (driveCell v.cellTime rest.isEmpty false :: driveCell v.cellTime (!acknowledged) rest.isEmpty ::
      driveSlots v.cellTime rest)
  have hlast := readCells_driveCells hcell [rest.isEmpty]
    (driveCell v.cellTime (!acknowledged) rest.isEmpty :: driveSlots v.cellTime rest)
  have hoctet : octetOfBits ((octetBits x ++ [parityBit x]).take 8) = x := octetOfBits_octetBits x
  have hparity : parityErrors at' true = 0 := by cases at' <;> rfl
  rw [driveSlots_cons, driveSlot_eq, List.append_assoc, receiveSlots]
  simp only [List.length_append, length_octetBits, List.length_cons, List.length_nil, List.map_cons, List.map_nil,
    List.cons_append, List.nil_append] at hnine hlast ⊢
  rw [hnine]
  dsimp only
  rw [hlast]
  dsimp only
  rw [oddParity_parityBit, hparity, hoctet, stretched_driveCell, readCell_driveCell hcell]
  rfl

/-- A frame that passes is acknowledged in no octet. -/
theorem receiveSlots_passing {octets : List (Byte × Bool)} (hsome : octets ≠ []) {n : Nat} (hn : octets.length ≤ n)
    (r : Received) : receiveSlots v n .passing (driveSlots v.cellTime octets) r =
      { r with acknowledged := r.acknowledged ++ List.replicate octets.length false, frame := none } := by
  induction octets generalizing n r with
  | nil => exact absurd rfl hsome
  | cons y rest ih =>
    obtain ⟨n, rfl⟩ := Nat.exists_eq_succ_of_ne_zero (Nat.ne_zero_of_lt hn)
    rw [receiveSlots_driveSlots hcell]
    cases rest with
    | nil => rfl
    | cons z rest =>
      refine (ih (List.cons_ne_nil z rest) (Nat.le_of_succ_le_succ hn) _).trans ?_
      simp [Received.judged, judgeOctet, List.replicate_succ]

/-- An accepted frame is acknowledged in every octet, and its octets are held when the last one has come. -/
theorem receiveSlots_receiving {src : NodeId} {octets : List Byte} (hsome : octets ≠ []) {n : Nat}
    (hn : octets.length ≤ n) {held : List Byte} (hsize : held.length + octets.length ≤ 26) (r : Received) :
    receiveSlots v n (.receiving src held) (driveSlots v.cellTime (octets.map fun x => (x, false))) r =
      { r with
        acknowledged := r.acknowledged ++ List.replicate octets.length true
        frame := (Reception.receiving src (held ++ octets)).complete } := by
  induction octets generalizing n held r with
  | nil => exact absurd rfl hsome
  | cons x rest ih =>
    obtain ⟨n, rfl⟩ := Nat.exists_eq_succ_of_ne_zero (Nat.ne_zero_of_lt hn)
    have hroom : held.length + 3 ≤ Config.frameOctets := by
      rw [List.length_cons] at hsize
      show held.length + 3 ≤ 28
      omega
    have hverdict (last : Bool) :
        judgeOctet v (.receiving src held) x true last = ⟨true, .receiving src (held ++ [x]), 0⟩ :=
      if_pos (by rw [decide_eq_true hroom]; rfl)
    rw [List.map_cons, receiveSlots_driveSlots hcell, hverdict]
    cases rest with
    | nil => rfl
    | cons y rest =>
      refine (ih (List.cons_ne_nil y rest) (Nat.le_of_succ_le_succ hn) ?_ _).trans ?_
      · rw [List.length_append, List.length_singleton, Nat.add_assoc, Nat.add_comm 1]
        exact hsize
      · simp [Received.judged, List.replicate_succ]

/-- Octet 1 is judged by nothing but its parity, octet 2 with the source that octet 1 gives. -/
theorem receiveFrame_driveSlots (octet1 octet2 : Byte) (acknowledged : Bool) (rest : List (Byte × Bool)) :
    receiveFrame v (driveSlots v.cellTime ((octet1, false) :: (octet2, acknowledged) :: rest)) =
      receiveSlots v (rest.length + 2) (.second octet1) (driveSlots v.cellTime ((octet2, acknowledged) :: rest))
        ⟨0, 0, [false], false, none⟩ := by
  rw [receiveFrame, length_driveSlots, Nat.mul_div_cancel_left _ (by decide), receiveSlots_driveSlots hcell]
  rfl

end

/-! ### Octet 2 (R159) -/

section
variable {v : Receiver} {octet1 : Byte} {dest : NodeId} {free : BitVec 1}

theorem judgeOctet_elsewhere (kind : BitVec 2) (last : Bool) (h : dest.toNat ≠ v.node ∨ dest = 31#5) :
    judgeOctet v (.second octet1) (dest ++ free ++ kind) true last = ⟨false, .passing, 0⟩ := by
  have hdest : (octetDestination (dest ++ free ++ kind)).toNat ≠ v.node ∨
      octetDestination (dest ++ free ++ kind) = 31#5 := by rwa [octetDestination_append]
  exact if_pos hdest

theorem judgeOctet_accepted (hdest : dest.toNat = v.node) (hone : dest ≠ 31#5) (hsrc : octetSource octet1 ≠ 31#5)
    (hslot : v.slotFree = true) : judgeOctet v (.second octet1) (dest ++ free ++ 1#2) true false =
      ⟨true, .receiving (octetSource octet1) [], 0⟩ := by
  have hhere : ¬ ((octetDestination (dest ++ free ++ 1#2)).toNat ≠ v.node ∨
      octetDestination (dest ++ free ++ 1#2) = 31#5) := by
    rw [octetDestination_append, not_or, not_not]
    exact ⟨hdest, hone⟩
  have hrequest : ¬ (octetKind (dest ++ free ++ 1#2) ≠ 1#2 ∨ octetSource octet1 = 31#5 ∨ false = true) := by
    rw [octetKind_append]
    simp [hsrc]
  exact (if_neg hhere).trans ((if_neg hrequest).trans (if_pos hslot))

end

/-! ### Whole frames of other nodes (R159, R160) -/

section
variable {v : Receiver} (hcell : 4 ≤ v.cellTime)
include hcell

/-- A frame to another node or to all comes to nothing. -/
theorem receiveFrame_elsewhere {dest : NodeId} (hdest : dest.toNat ≠ v.node ∨ dest = 31#5) (octet1 : Byte)
    (free : BitVec 1) (kind : BitVec 2) (acknowledged : Bool) (rest : List (Byte × Bool)) :
    receiveFrame v (driveSlots v.cellTime ((octet1, false) :: (dest ++ free ++ kind, acknowledged) :: rest)) =
      ⟨0, 0, List.replicate (rest.length + 2) false, false, none⟩ := by
  rw [receiveFrame_driveSlots hcell, receiveSlots_driveSlots hcell, judgeOctet_elsewhere kind _ hdest]
  cases rest with
  | nil => rfl
  | cons y rest => exact receiveSlots_passing hcell (List.cons_ne_nil y rest) (Nat.le_succ _) _

/-- A request to the part is held, with every octet from the second on acknowledged. -/
theorem receiveFrame_request {dest src : NodeId} (hdest : dest.toNat = v.node) (hone : dest ≠ 31#5) (hsrc : src ≠ 31#5)
    (hslot : v.slotFree = true) {params : List Byte} (hparams : params.length ≤ 25) (priority : BitVec 3)
    (free : BitVec 1) (code : Byte) :
    receiveFrame v (driveSlots v.cellTime ((priority ++ src, false) :: (dest ++ free ++ 1#2, false) ::
        (code :: params).map fun x => (x, false))) =
      ⟨0, 0, false :: List.replicate (params.length + 2) true, false, some ⟨src, code, params⟩⟩ := by
  have hsource : octetSource (priority ++ src) ≠ 31#5 := by rwa [octetSource_append]
  have hlength : ((code :: params).map fun x => (x, false)).length = params.length + 1 := List.length_map ..
  rw [receiveFrame_driveSlots hcell, receiveSlots_driveSlots hcell]
  dsimp only
  rw [List.isEmpty_map, List.isEmpty_cons, judgeOctet_accepted hdest hone hsource hslot, octetSource_append, hlength]
  exact receiveSlots_receiving hcell (List.cons_ne_nil code params) (Nat.le_succ _)
    (held := []) ((Nat.zero_add _).trans_le (Nat.succ_le_succ hparams)) _

end

section
variable {s : State} (hready : s.ready = true) (hidle : s.lp.engine = .idle)
  (hfilter : s.lp.filter = true → 8 ≤ s.lp.cellTime) {octets : List (Byte × Bool)} {r : Received}
  (hreceived : receiveFrame s.lp.receiver (driveSlots s.lp.cellTime octets) = r)
include hready hidle hfilter hreceived

/-- A driven frame is received from an idle line, whatever it is for. -/
theorem frameOnLine_driveFrame :
    whenReady s (frameOnLine (driveFrame s.lp.cellTime octets)) = s.setLp (s.lp.takeReceived r) := by
  rw [whenReady_of hready, frameOnLine, LinePort.receive, if_neg (not_not.2 hidle), seenLine_driveFrame hfilter,
    LinePort.receiveSeen, if_pos (startMarkOk_driveFrame ..), hreceived]

end

/-- Settles O4: the frame is received whole, and what is received is held in the inbound buffer. -/
theorem drivenRequestIsReceived : Obligations.DrivenRequestIsReceived := by
  intro s priority src free code params hready hidle hnode hcell hfilter hsrc hparams hslot
  have htoNat : (BitVec.ofNat 5 s.lp.node).toNat = s.lp.node := by
    rw [BitVec.toNat_ofNat]
    omega
  have hone : BitVec.ofNat 5 s.lp.node ≠ 31#5 := fun h => by
    rw [h] at htoNat
    rw [← htoNat] at hnode
    exact absurd hnode (by decide)
  have hreceived := receiveFrame_request (v := s.lp.receiver) hcell htoNat hone hsrc (decide_eq_true hslot) hparams priority
    free code
  exact ⟨_, congrArg Host.Outcome.next (frameOnLine_driveFrame hready hidle hfilter hreceived), rfl⟩

/-- Settles O5: the frame is received to its end and comes to nothing. -/
theorem frameForAnotherNodePasses : Obligations.FrameForAnotherNodePasses := by
  intro s octet1 dest free kind acknowledged rest hready hidle hcell hfilter hdest
  have hreceived := receiveFrame_elsewhere (v := s.lp.receiver) hcell hdest octet1 free kind acknowledged rest
  refine ⟨_, congrArg Host.Outcome.next (frameOnLine_driveFrame hready hidle hfilter hreceived), ?_⟩
  rw [LinePort.takeReceived, Option.toList_none, List.append_nil]
  rfl

/-! ### A frame of the part's own, undisturbed (R157, R158) -/

/-- What stands on the line in a cell that was sent disturbs nothing: it is the bit that was sent where that is watched, and the
acknowledgement where one is awaited. -/
def Undisturbed (standing : Bool) : Bool × Watch → Prop
  | (b, .arbitration) | (b, .plain) => standing = b
  | (_, .unwatched) => True
  | (_, .response addressed) => addressed = true → standing = false

theorem dominantAtSample_driveCell {cellTime : Nat} (h : 4 ≤ cellTime) (b final : Bool) :
    decide (0 + 44 * hundredth cellTime < (driveCell cellTime b final).dominant) = !b := by
  cases b <;> simp [driveCell, hundredth] <;> omega

section
variable {cellTime : Nat} (hcell : 4 ≤ cellTime)
include hcell

/-- An undisturbed cell leads on to the next one. -/
theorem judgeAttempt_driveCell {standing : Bool} {cell : Bool × Watch} (h : Undisturbed standing cell)
    (sent : List (Bool × Watch)) (line : List LineCell) :
    judgeAttempt cellTime 0 (cell :: sent) (driveCell cellTime standing sent.isEmpty :: line) =
      judgeAttempt cellTime 0 sent line := by
  obtain ⟨b, watch⟩ := cell
  have hnext : (driveCell cellTime standing sent.isEmpty).next.any
      (fun t => decide (0 + 125 * hundredth cellTime < t)) = false := by
    cases sent.isEmpty with
    | true => rfl
    | false => exact decide_eq_false (by omega)
  rw [judgeAttempt.eq_def]
  dsimp only
  rw [readCell_driveCell hcell, dominantAtSample_driveCell hcell, hnext]
  cases watch with
  | arbitration =>
    obtain rfl : standing = b := h
    cases standing <;> rfl
  | unwatched => rfl
  | plain =>
    obtain rfl : standing = b := h
    cases standing <;> rfl
  | response addressed =>
    cases addressed with
    | false => rfl
    | true =>
      obtain rfl : standing = false := h rfl
      rfl

/-- Undisturbed cells of one kind of watch, with more to come. -/
theorem judgeAttempt_driveCells {watch : Watch} (h : ∀ b, Undisturbed b (b, watch)) (bits : List Bool)
    {sent : List (Bool × Watch)} (hmore : sent.isEmpty = false) (line : List LineCell) :
    judgeAttempt cellTime 0 (bits.map (fun b => (b, watch)) ++ sent) (bits.map (driveCell cellTime · false) ++ line) =
      judgeAttempt cellTime 0 sent line := by
  induction bits with
  | nil => rfl
  | cons b bits ih =>
    have hcells : (bits.map (fun b => (b, watch)) ++ sent).isEmpty = false := by
      cases bits with
      | nil => exact hmore
      | cons _ _ => rfl
    have hfirst := judgeAttempt_driveCell hcell (h b) (bits.map (fun b => (b, watch)) ++ sent)
      (bits.map (driveCell cellTime · false) ++ line)
    rw [hcells] at hfirst
    exact hfirst.trans ih

/-- Octet 1, in whose slot only the eight cells of the octet are watched. -/
theorem judgeAttempt_firstSlot (broadcast acknowledged : Bool) (x : Byte) (sent : List (Bool × Watch))
    (line : List LineCell) :
    judgeAttempt cellTime 0 (sentSlot true broadcast sent.isEmpty x ++ sent)
      (driveSlot cellTime x sent.isEmpty acknowledged ++ line) = judgeAttempt cellTime 0 sent line := by
  have hbits := judgeAttempt_driveCells hcell (watch := .arbitration) (fun _ => rfl) (octetBits x)
    (sent := (parityBit x, .unwatched) :: (sent.isEmpty, .unwatched) :: (true, .unwatched) :: sent) rfl
    (driveCell cellTime (parityBit x) false :: driveCell cellTime sent.isEmpty false ::
      driveCell cellTime (!acknowledged) sent.isEmpty :: line)
  have hunwatched (standing b : Bool) := judgeAttempt_driveCell hcell (standing := standing) (cell := (b, .unwatched)) trivial
  exact hbits.trans ((hunwatched _ _ (_ :: _ :: sent) _).trans
    ((hunwatched _ _ (_ :: sent) _).trans (hunwatched _ _ sent line)))

/-- A later octet, acknowledged where the frame is addressed. -/
theorem judgeAttempt_laterSlot (broadcast : Bool) (x : Byte) (sent : List (Bool × Watch)) (line : List LineCell) :
    judgeAttempt cellTime 0 (sentSlot false broadcast sent.isEmpty x ++ sent)
      (driveSlot cellTime x sent.isEmpty (!broadcast) ++ line) = judgeAttempt cellTime 0 sent line := by
  have hbits := judgeAttempt_driveCells hcell (watch := .plain) (fun _ => rfl)
    (octetBits x ++ [parityBit x, sent.isEmpty]) (sent := (true, .response (!broadcast)) :: sent) rfl
    (driveCell cellTime (!!broadcast) sent.isEmpty :: line)
  have hresponse : Undisturbed (!!broadcast) (true, .response (!broadcast)) := fun h => by
    rw [h]
    rfl
  exact hbits.trans (judgeAttempt_driveCell hcell hresponse sent line)

end

theorem sentCells_cons (broadcast first : Bool) (x : Byte) (rest : List Byte) :
    sentCells broadcast first (x :: rest) =
      sentSlot first broadcast (sentCells broadcast false rest).isEmpty x ++ sentCells broadcast false rest := by
  cases rest with
  | nil => exact (List.append_nil _).symm
  | cons y rest => cases rest <;> rfl

theorem isEmpty_sentCells (broadcast first : Bool) (octets : List Byte) :
    (sentCells broadcast first octets).isEmpty = octets.isEmpty := by
  cases octets with
  | nil => rfl
  | cons x rest => cases first <;> cases rest <;> rfl

/-- The octets from the second on, undisturbed to their end. -/
theorem judgeAttempt_laterOctets {cellTime : Nat} (hcell : 4 ≤ cellTime) (broadcast : Bool) (octets : List Byte) :
    judgeAttempt cellTime 0 (sentCells broadcast false octets)
      (driveSlots cellTime (octets.map fun x => (x, !broadcast))) = .delivered := by
  induction octets with
  | nil => rfl
  | cons x rest ih =>
    have hslot := judgeAttempt_laterSlot hcell broadcast x (sentCells broadcast false rest)
      (driveSlots cellTime (rest.map fun x => (x, !broadcast)))
    rw [List.map_cons, driveSlots_cons, List.isEmpty_map, sentCells_cons, ← isEmpty_sentCells broadcast false rest]
    exact hslot.trans ih

/-- Settles O6: octet 1, then the octets from the second on. -/
theorem undisturbedFrameIsDelivered : Obligations.UndisturbedFrameIsDelivered := by
  intro cellTime filter broadcast octet1 rest hcell hfilter
  have hslot := judgeAttempt_firstSlot hcell broadcast false octet1 (sentCells broadcast false rest)
    (driveSlots cellTime (rest.map fun x => (x, !broadcast)))
  rw [seenLine_driveFrame hfilter, List.tail_cons, driveSlots_cons, List.isEmpty_map, sentCells_cons,
    ← isEmpty_sentCells broadcast false rest]
  exact hslot.trans (judgeAttempt_laterOctets hcell broadcast rest)

end Sys2Proof.Machine
end

section
/-! SUPPORT. The bit engine: how it leaves and enters the idle line, which frame it starts, and what the end of an attempt leaves in
the frame's place. -/

namespace Sys2Proof.Machine

/-! ### A dominant that is no start mark, and the idle line (R154) -/

theorem exec_notAStartMark {s : State} {m : LineCell} (hready : s.ready = true) (hidle : s.lp.engine = .idle)
    (hmark : startMarkOk s.lp.cellTime m = false) (hseen : (s.lp.filter && shortLevel m.dominant) = false) :
    exec (.notAStartMark m) s = .next (s.setLp s.lp.badMark) := by
  show execNotAStartMark m s = _
  rw [execNotAStartMark, whenReady_of hready, if_pos ⟨hidle, hmark, hseen⟩]

theorem idleFor_of_busy {lp : LinePort} {ns : Nat} (hbusy : lp.engine = .busy) (h : 600 * hundredth lp.cellTime ≤ ns) :
    lp.idleFor ns = { lp with
      engine := .idle
      ownWait := if 1000 * hundredth lp.cellTime ≤ ns then false else lp.ownWait } := by
  have hsix : (if lp.engine = .busy ∧ 600 * hundredth lp.cellTime ≤ ns then { lp with engine := .idle } else lp) =
      { lp with engine := .idle } := if_pos ⟨hbusy, h⟩
  rw [LinePort.idleFor, hsix]
  by_cases hten : 1000 * hundredth lp.cellTime ≤ ns
  · rw [if_pos hten]
    exact if_pos ⟨rfl, hten⟩
  · rw [if_neg hten]
    exact if_neg fun hboth => hten hboth.2

/-! ### Which frame is started (R163, R165) -/

theorem exec_frameStart {s : State} (hready : s.ready = true) : exec .frameStart s = .next (s.setLp s.lp.startFrame) :=
  congrArg Host.Outcome.next (whenReady_of hready _)

/-- The frame that is found is one of the list. -/
theorem mem_of_firstOfLowest {i j : Nat} {frames : List OutFrame} {g : OutFrame}
    (h : firstOfLowest i frames = some (j, g)) : g ∈ frames := by
  induction frames generalizing i with
  | nil => cases h
  | cons f rest ih =>
    rw [firstOfLowest] at h
    split at h
    · cases h
      exact List.mem_cons_self
    · next hrest =>
      split at h
      · cases h
        exact List.mem_cons_of_mem f (ih hrest)
      · cases h
        exact List.mem_cons_self

/-- No frame behind is of a lower number: the first one is found. -/
theorem firstOfLowest_cons {f : OutFrame} {behind : List OutFrame} (h : ∀ x ∈ behind, f.priority ≤ x.priority) (i : Nat) :
    firstOfLowest i (f :: behind) = some (i, f) := by
  rw [firstOfLowest]
  split
  · rfl
  · next hrest => exact if_neg (Nat.not_lt.2 (h _ (mem_of_firstOfLowest hrest)))

/-- The frame of the lowest number is found, the first among equals. -/
theorem firstOfLowest_append {before behind : List OutFrame} {f : OutFrame}
    (hbefore : ∀ x ∈ before, f.priority < x.priority) (hbehind : ∀ x ∈ behind, f.priority ≤ x.priority) (i : Nat) :
    firstOfLowest i (before ++ f :: behind) = some (i + before.length, f) := by
  induction before generalizing i with
  | nil => exact firstOfLowest_cons hbehind i
  | cons x rest ih =>
    have hrest := ih (fun y hy => hbefore y (List.mem_cons_of_mem x hy)) (i + 1)
    rw [List.cons_append, firstOfLowest, hrest, List.length_cons, Nat.add_comm rest.length, ← Nat.add_assoc]
    exact if_pos (hbefore x List.mem_cons_self)

/-- On an idle line, without a wait and with nothing in flight, the chosen frame is started. -/
theorem startFrame_of_chosen {lp : LinePort} {place : SendingPlace} {f : OutFrame} (hidle : lp.engine = .idle)
    (hwait : lp.ownWait = false) (hsending : lp.sending = none) (h : lp.chooseFrame = some (place, f)) :
    lp.startFrame = { lp with
      engine := .sending
      sending := some ⟨place, f.octets lp.node, decide (f.destination = 31#5), false⟩ } := by
  rw [LinePort.startFrame, if_pos ⟨hidle, hwait, hsending⟩, h]

/-- Nothing is started on a line that is not idle, during the wait, with a frame in flight, and with none to send. -/
theorem startFrame_of_kept {lp : LinePort} (h : lp.engine ≠ .idle ∨ lp.ownWait = true ∨ lp.sending.isSome = true ∨
    (lp.statePlace = none ∧ lp.general = [])) : lp.startFrame = lp := by
  unfold LinePort.startFrame
  split
  · next hstart =>
    obtain ⟨hidle, hwait, hsending⟩ := hstart
    obtain ⟨hstate, hgeneral⟩ : lp.statePlace = none ∧ lp.general = [] := by simpa [hidle, hwait, hsending] using h
    rw [LinePort.chooseFrame, hstate, hgeneral]
    rfl
  · rfl

/-- Settles O59: the idle line, then the frame that is chosen. -/
theorem bitEngineMoves : Obligations.BitEngineMoves := by
  refine ⟨fun s m hready hidle hmark hlong => exec_notAStartMark hready hidle hmark ?seen,
    fun s ns hready hbusy hsix => ?idle, fun s f hready hidle hwait hsending hstate => ?state,
    fun s before f behind hready hidle hwait hsending hstate hgeneral hbefore hbehind => ?general,
    fun s hready hkept => ?kept⟩
  case seen =>
    cases hfilter : s.lp.filter with
    | false => rfl
    | true => exact shortLevel_of_long (hlong hfilter)
  case idle => exact congrArg Host.Outcome.next ((whenReady_of hready _).trans (congrArg s.setLp (idleFor_of_busy hbusy hsix)))
  case state =>
    have hchosen : s.lp.chooseFrame = some (.state, f) := by rw [LinePort.chooseFrame, hstate]
    rw [exec_frameStart hready, startFrame_of_chosen hidle hwait hsending hchosen]
  case general =>
    have hchosen : s.lp.chooseFrame = some (.general before.length, f) := by
      rw [LinePort.chooseFrame, hstate, hgeneral, firstOfLowest_append hbefore hbehind, Nat.zero_add]
      rfl
    rw [exec_frameStart hready, startFrame_of_chosen hidle hwait hsending hchosen]
  case kept => rw [exec_frameStart hready, startFrame_of_kept hkept]; rfl

/-! ### What becomes of the place (R164, R165, R168, R175) -/

section
variable {lp : LinePort} {x : Sending}

theorem releasePlace_state (hplace : x.place = .state) :
    lp.releasePlace x = { lp with statePlace := if x.replaced then lp.statePlace else none } := by
  rw [LinePort.releasePlace, hplace]
  cases x.replaced <;> rfl

theorem releasePlace_general {i : Nat} {f : OutFrame} (hplace : x.place = .general i) (hf : lp.general[i]? = some f) :
    lp.releasePlace x = ({ lp with general := lp.general.eraseIdx i } : LinePort).afterFrame f.after := by
  rw [LinePort.releasePlace, hplace]
  dsimp only
  rw [hf]

/-- A frame that is given up is counted. -/
def LinePort.countUndelivered (lp : LinePort) : LinePort :=
  { lp with counters := { lp.counters with undelivered := saturatingSucc lp.counters.undelivered } }

theorem abortPlace_state_kept {f : OutFrame} (hplace : x.place = .state) (hf : lp.statePlace = some f)
    (h : f.aborts < 2) : lp.abortPlace x = { lp with statePlace := some { f with aborts := f.aborts + 1 } } := by
  rw [LinePort.abortPlace, hplace]
  dsimp only
  rw [hf]
  exact if_pos (Nat.succ_lt_succ h)

theorem abortPlace_state_discarded {f : OutFrame} (hplace : x.place = .state) (hf : lp.statePlace = some f)
    (h : 2 ≤ f.aborts) : lp.abortPlace x = ({ lp with statePlace := none } : LinePort).countUndelivered := by
  rw [LinePort.abortPlace, hplace]
  dsimp only
  rw [hf]
  exact if_neg (Nat.not_lt.2 (Nat.succ_le_succ h))

theorem abortPlace_general_kept {i : Nat} {f : OutFrame} (hplace : x.place = .general i) (hf : lp.general[i]? = some f)
    (h : f.aborts < 2) :
    lp.abortPlace x = { lp with general := lp.general.set i { f with aborts := f.aborts + 1 } } := by
  rw [LinePort.abortPlace, hplace]
  dsimp only
  rw [hf]
  exact if_pos (Nat.succ_lt_succ h)

theorem abortPlace_general_discarded {i : Nat} {f : OutFrame} (hplace : x.place = .general i)
    (hf : lp.general[i]? = some f) (h : 2 ≤ f.aborts) : lp.abortPlace x =
      (({ lp with general := lp.general.eraseIdx i } : LinePort).afterFrame f.after).countUndelivered := by
  rw [← releasePlace_general hplace hf, LinePort.abortPlace, hplace]
  dsimp only
  rw [hf]
  exact if_neg (Nat.not_lt.2 (Nat.succ_le_succ h))

end

/-! ### The end of an attempt (R157, R158) -/

/-- The attempt is over: nothing is in flight, and the part waits. -/
def LinePort.ended (lp : LinePort) : LinePort :=
  { lp with sending := none, engine := .busy, ownWait := true, lineOut := ⟨[], false⟩ }

/-- The attempt is lost to another node's frame, which the part then receives. -/
def LinePort.lost (lp : LinePort) : LinePort :=
  { lp.ended with ownWait := false, counters := { lp.counters with losses := saturatingSucc lp.counters.losses } }

/-- The attempt is over with an error abort: a collision and an error seen are counted, an error seen is pulsed. -/
def LinePort.aborted (lp : LinePort) (outcome : AttemptEnd) : LinePort :=
  { lp.ended with
    lineOut := ⟨[], decide (outcome = .errorSeen)⟩
    counters := if outcome = .refused then lp.counters
      else { lp.counters with bitErrors := saturatingSucc lp.counters.bitErrors } }

section
variable {lp : LinePort} {x : Sending} {w : Wave} (hsending : lp.sending = some x)
include hsending

theorem endAttempt_of_delivered (h : lp.attemptEnd x w = .delivered) : lp.endAttempt w = lp.ended.releasePlace x := by
  rw [LinePort.endAttempt, hsending]
  dsimp only
  rw [h]
  rfl

theorem endAttempt_of_lost (h : lp.attemptEnd x w = .lost) :
    lp.endAttempt w = lp.lost.receiveSeen (seenLine lp.filter w) := by
  rw [LinePort.endAttempt, hsending]
  dsimp only
  rw [h]
  rfl

theorem endAttempt_of_aborted {outcome : AttemptEnd} (h : lp.attemptEnd x w = outcome)
    (habort : outcome = .collision ∨ outcome = .errorSeen ∨ outcome = .refused) :
    lp.endAttempt w = (lp.aborted outcome).abortPlace x := by
  rw [LinePort.endAttempt, hsending]
  dsimp only
  rw [h]
  rcases habort with rfl | rfl | rfl <;> rfl

end

theorem receiveSeen_of_startMark {lp : LinePort} {m : LineCell} (h : startMarkOk lp.cellTime m = true)
    (cells : List LineCell) : lp.receiveSeen (m :: cells) = lp.takeReceived (receiveFrame lp.receiver cells) := if_pos h

theorem receiveSeen_of_badMark {lp : LinePort} {m : LineCell} (h : startMarkOk lp.cellTime m = false)
    (cells : List LineCell) : lp.receiveSeen (m :: cells) = lp.badMark := if_neg (Bool.eq_false_iff.1 h)

/-- The part that becomes a receiver keeps its own frames and what it has counted of them, whatever it sees. -/
theorem receiveSeen_keeps {lp : LinePort} (hbusy : lp.engine = .busy) (cells : List LineCell) :
    (lp.receiveSeen cells).general = lp.general ∧ (lp.receiveSeen cells).statePlace = lp.statePlace ∧
      (lp.receiveSeen cells).sending = lp.sending ∧ (lp.receiveSeen cells).engine = .busy ∧
      (lp.receiveSeen cells).counters.losses = lp.counters.losses ∧
      (lp.receiveSeen cells).counters.undelivered = lp.counters.undelivered := by
  cases cells with
  | nil => exact ⟨rfl, rfl, rfl, hbusy, rfl, rfl⟩
  | cons m cells =>
    cases hmark : startMarkOk lp.cellTime m with
    | true =>
      rw [receiveSeen_of_startMark hmark]
      exact ⟨rfl, rfl, rfl, rfl, rfl, rfl⟩
    | false =>
      rw [receiveSeen_of_badMark hmark]
      exact ⟨rfl, rfl, rfl, rfl, rfl, rfl⟩

/-- The three rows for the end of an attempt all have the part end it, as the line says. -/
theorem attemptEnds_of {s : State} (hready : s.ready = true) {w : Wave} {lp : LinePort} (h : s.lp.endAttempt w = lp) :
    Host.Outcome.next (whenReady s (attemptEnds w)) = (.next (s.setLp lp) : Host.Outcome State Fault Refusal) := by
  rw [whenReady_of hready, attemptEnds, h]

/-- Settles O60: the end of the attempt by its outcome, then what becomes of the place. -/
theorem attemptsEnd : Obligations.AttemptsEnd := by
  intro s w x hready hsending outcome errors discarded rests
  refine ⟨fun hlost m cells hseen => ?received, fun i f hplace hf => ⟨fun hdelivered => ?generalDelivered,
      fun hlost => ?generalLost, fun habort => ?generalAborted⟩,
    fun f hplace hf => ⟨fun hdelivered => ?stateDelivered, fun hlost => ?stateLost, fun habort => ?stateAborted⟩⟩
  case received =>
    have hend := endAttempt_of_lost hsending hlost
    rw [hseen] at hend
    exact ⟨fun hmark => attemptEnds_of hready (hend.trans (receiveSeen_of_startMark (lp := s.lp.lost) hmark cells)),
      fun hmark => attemptEnds_of hready (hend.trans (receiveSeen_of_badMark (lp := s.lp.lost) hmark cells))⟩
  case generalDelivered =>
    have hend := (endAttempt_of_delivered hsending hdelivered).trans (releasePlace_general hplace hf)
    exact ⟨_, attemptEnds_of hready hend, ⟨rfl, rfl, rfl, rfl, rfl, rfl⟩, ⟨rfl, rfl, rfl, fun h => if_pos h⟩, rfl, rfl, rfl⟩
  case generalLost =>
    obtain ⟨hgeneral, -, hnone, hbusy, hlosses, hundelivered⟩ :=
      receiveSeen_keeps (lp := s.lp.lost) rfl (seenLine s.lp.filter w)
    exact ⟨_, attemptEnds_of hready (endAttempt_of_lost hsending hlost), hgeneral, hnone, hbusy, hlosses, hundelivered, rfl, rfl⟩
  case generalAborted =>
    have hend := endAttempt_of_aborted hsending rfl habort
    rcases Nat.lt_or_ge f.aborts 2 with hfew | hmany
    · exact ⟨_, attemptEnds_of hready (hend.trans (abortPlace_general_kept hplace hf hfew)), ⟨rfl, rfl, rfl, rfl, rfl, rfl⟩,
        rfl, rfl, fun _ => ⟨rfl, rfl⟩, fun hmany => absurd hfew (Nat.not_lt.2 hmany)⟩
    · exact ⟨_, attemptEnds_of hready (hend.trans (abortPlace_general_discarded hplace hf hmany)),
        ⟨rfl, rfl, rfl, rfl, rfl, rfl⟩, rfl, rfl, fun hfew => absurd hfew (Nat.not_lt.2 hmany),
        fun _ => ⟨⟨rfl, rfl, rfl, fun h => if_pos h⟩, rfl, rfl⟩⟩
  case stateDelivered =>
    have hend := (endAttempt_of_delivered hsending hdelivered).trans (releasePlace_state hplace)
    exact ⟨_, attemptEnds_of hready hend, ⟨rfl, rfl, rfl, rfl, rfl, rfl⟩, rfl, rfl,
      congrArg (fun place => if x.replaced then place else none) hf⟩
  case stateLost =>
    obtain ⟨hgeneral, hstate, hnone, -, hlosses, -⟩ := receiveSeen_keeps (lp := s.lp.lost) rfl (seenLine s.lp.filter w)
    exact ⟨_, attemptEnds_of hready (endAttempt_of_lost hsending hlost), hgeneral, hstate.trans hf, hnone, hlosses⟩
  case stateAborted =>
    have hend := endAttempt_of_aborted hsending rfl habort
    rcases Nat.lt_or_ge f.aborts 2 with hfew | hmany
    · exact ⟨_, attemptEnds_of hready (hend.trans (abortPlace_state_kept hplace hf hfew)), ⟨rfl, rfl, rfl, rfl, rfl, rfl⟩,
        rfl, rfl, fun _ => ⟨rfl, rfl⟩, fun hmany => absurd hfew (Nat.not_lt.2 hmany)⟩
    · exact ⟨_, attemptEnds_of hready (hend.trans (abortPlace_state_discarded hplace hf hmany)),
        ⟨rfl, rfl, rfl, rfl, rfl, rfl⟩, rfl, rfl, fun hfew => absurd hfew (Nat.not_lt.2 hmany), fun _ => ⟨rfl, rfl⟩⟩

end Sys2Proof.Machine
end

section
/-! SUPPORT. The working settings in their ranges: after a change, and after a load of the setup page. -/

namespace Sys2Proof.Machine

/-! ### Ranges (R166, R171) -/

theorem within_clampNat {lo hi : Nat} (h : lo ≤ hi) (n : Nat) : within (clampNat n lo hi) lo hi := by
  rw [clampNat_eq h, within]
  omega

theorem storedTackCount_range (n : Nat) :
    storedTackCount n = 0 ∨ storedTackCount n = 2 ∨ storedTackCount n = 4 ∨ storedTackCount n = 6 := by
  rw [storedTackCount_eq]
  omega

theorem settingsInRange_defaults : SettingsInRange .defaults := by
  constructor <;> simp [Settings.defaults, within]

/-- A value that is not refused is stored in range, whatever its code names (R167). -/
theorem SettingsInRange.store {st : Settings} (h : SettingsInRange st) {code : Byte} {v : Nat}
    (haccepted : settingRefused code v = false) : SettingsInRange (st.store code v) := by
  unfold Settings.store
  split
  · next hcode =>
    have hcode : code = 0x01 := BitVec.eq_of_toNat_eq hcode
    exact { h with nodeNumber := ⟨Nat.zero_le v, by simpa [settingRefused, hcode] using haccepted⟩ }
  · exact { h with cellTime := within_clampNat (by decide) v }
  · exact { h with }
  · exact { h with travel := within_clampNat (by decide) v, homeLateral := ⟨Nat.zero_le _, Nat.min_le_right ..⟩ }
  · exact { h with homeLateral := within_clampNat (Nat.zero_le _) v }
  · exact { h with xMax := within_clampNat (by decide) v }
  · exact { h with yFwd := within_clampNat (by decide) v }
  · exact { h with yRev := within_clampNat (by decide) v }
  · exact { h with xJmax := within_clampNat (by decide) v }
  · exact { h with yJmax := within_clampNat (by decide) v }
  · exact { h with defStitch := within_clampNat (by decide) v }
  · exact { h with defTackCount := storedTackCount_range v }
  · exact { h with defTackLength := within_clampNat (by decide) v }
  · exact { h with primeDepth := within_clampNat (by decide) v }
  · exact { h with leadLimit := within_clampNat (by decide) v }
  · exact { h with stopSilence := within_clampNat (by decide) v }
  · exact { h with spliceHalf := within_clampNat (by decide) v }
  · exact { h with }
  · exact h

/-- What a usable setup page holds is in range, and its role table is sound (R171). The facts about the page (p) are numbered by
the offset of their field. -/
theorem settings_of_setupPage {mem : List Host.Cell} {new : Settings} (h : readSetupPage mem = .ok new) :
    SettingsInRange new ∧ roleTableOk new.roles = true := by
  unfold readSetupPage at h
  dsimp only at h
  split at h
  · cases h
  · next hpass =>
    cases h
    rw [List.find?_eq_none] at hpass
    simp only [List.cons_append, List.nil_append, List.mem_cons, List.not_mem_nil, or_false, forall_eq_or_imp, forall_eq,
      Bool.not_eq_true', Bool.not_eq_false, Bool.and_eq_true, Bool.or_eq_true, decide_eq_true_eq, beq_iff_eq,
      or_assoc] at hpass
    obtain ⟨-, p2, p3, -, p5, p7, p9, p10, p11, p12, p13, p14, p15, p16, p17, p18, p19, p21, ptable⟩ := hpass
    refine ⟨⟨p2, p3, p5, p7, p9, p10, p11, p12, p13, p14, p15, p16, p17, p18, p19, p21⟩, ?_⟩
    show roleTableOk (Option.getD (α := List RoleEntry) _ _) = true
    revert ptable
    split
    · cases rolesOf (pageRoles mem (arrayByte mem (setupBase + 27)).toNat 0) with
      | none => exact nofun
      | some roles => exact id
    · exact nofun

end Sys2Proof.Machine
end

section
/-! SUPPORT. The role table, entry by entry: what SET ROLE leaves in it, and that it stays sound. -/

namespace Sys2Proof.Machine

/-! ### The table as a list of entries (R170) -/

/-- Two entries that may stand in one table: of different nodes, and not both of one single role. -/
def RoleEntry.Apart (a b : RoleEntry) : Prop := a.node ≠ b.node ∧ ¬ (a.role = b.role ∧ a.role.single = true)

theorem RoleEntry.Apart.symm {a b : RoleEntry} (h : a.Apart b) : b.Apart a :=
  ⟨h.1.symm, fun ⟨hrole, hsingle⟩ => h.2 ⟨hrole.symm, hrole ▸ hsingle⟩⟩

/-- Since SUPERVISOR is a single role, a table holds exactly one where it holds one. -/
theorem one_supervisor_iff {t : List RoleEntry} (h : t.Pairwise RoleEntry.Apart) :
    (t.filter fun e => e.role == .supervisor).length = 1 ↔ ∃ e ∈ t, e.role = .supervisor := by
  induction t with
  | nil => simp
  | cons a rest ih =>
    obtain ⟨hapart, hrest⟩ := List.pairwise_cons.1 h
    by_cases ha : a.role = .supervisor
    · have hnone : (rest.filter fun e => e.role == .supervisor) = [] := by
        rw [List.filter_eq_nil_iff]
        exact fun e he hsup => (hapart e he).2 ⟨ha.trans (eq_of_beq hsup).symm, by rw [ha]; rfl⟩
      simp [ha, hnone]
    · simp [ha, ih hrest]

theorem roleTableOk_iff (t : List RoleEntry) :
    roleTableOk t = true ↔ (∀ e ∈ t, e.node ≤ 30) ∧ t.Pairwise RoleEntry.Apart ∧ ∃ e ∈ t, e.role = .supervisor := by
  have hpairs : t.Pairwise RoleEntry.Apart ↔ t.Pairwise (fun a b => a.node ≠ b.node) ∧
      t.Pairwise (fun a b => ¬ (a.role = b.role ∧ a.role.single = true)) := List.pairwise_and_iff
  simp only [roleTableOk, Bool.and_eq_true, List.all_eq_true, decide_eq_true_eq, and_assoc]
  constructor
  · rintro ⟨hnodes, hnode, hrole, hone⟩
    have hapart := hpairs.2 ⟨hnode, hrole⟩
    exact ⟨hnodes, hapart, (one_supervisor_iff hapart).1 hone⟩
  · rintro ⟨hnodes, hapart, hone⟩
    obtain ⟨hnode, hrole⟩ := hpairs.1 hapart
    exact ⟨hnodes, hnode, hrole, (one_supervisor_iff hapart).2 hone⟩

/-- The role of a node is that of its entry. -/
theorem roleOfNode_eq_some_iff {t : List RoleEntry} (h : t.Pairwise RoleEntry.Apart) (node : Nat) (role : Role) :
    roleOfNode t node = some role ↔ ⟨node, role⟩ ∈ t := by
  induction t with
  | nil => simp [roleOfNode]
  | cons a rest ih =>
    obtain ⟨hapart, hrest⟩ := List.pairwise_cons.1 h
    obtain ⟨n, r⟩ := a
    rw [List.mem_cons, ← ih hrest, roleOfNode, roleOfNode]
    by_cases hn : n = node
    · subst hn
      have hbehind : (rest.find? fun e => e.node == n) = none :=
        List.find?_eq_none.2 fun e he heq => (hapart e he).1 (eq_of_beq heq).symm
      simp [hbehind, eq_comm]
    · rw [List.find?_cons_of_neg (by simpa using hn)]
      simp [Ne.symm hn]

theorem roleOfNode_eq_none_iff (t : List RoleEntry) (node : Nat) :
    roleOfNode t node = none ↔ ∀ e ∈ t, e.node ≠ node := by
  simp [roleOfNode]

/-! ### The table after a SET ROLE (R170) -/

section
variable {t : List RoleEntry} {node : Nat} {given : Option Role}

theorem roleHeld_eq_false_iff :
    roleHeld t node given = false ↔ ∀ r, given = some r → r.single = true → ∀ e ∈ t, e.role = r → e.node = node := by
  cases given <;> simp [roleHeld]

/-- The entries of the other nodes stand; the node has what was given. -/
theorem mem_setRoleTable {e : RoleEntry} :
    e ∈ setRoleTable t node given ↔ (e ∈ t ∧ e.node ≠ node) ∨ ∃ r, given = some r ∧ e = ⟨node, r⟩ := by
  cases given with
  | none => simp [setRoleTable]
  | some r =>
    simp only [Option.some.injEq, exists_eq_left']
    unfold setRoleTable
    dsimp only
    split
    · next hentry =>
      obtain ⟨x, hx, hnode⟩ := List.any_eq_true.1 hentry
      rw [List.mem_map]
      constructor
      · rintro ⟨y, hy, rfl⟩
        by_cases hyn : y.node = node <;> simp [hyn, hy]
      · rintro (⟨he, hne⟩ | rfl)
        · exact ⟨e, he, by simp [hne]⟩
        · exact ⟨x, hx, if_pos hnode⟩
    · next hentry =>
      have hothers : ∀ x ∈ t, x.node ≠ node := by simpa using hentry
      rw [List.mem_append, List.mem_singleton]
      exact or_congr_left ⟨fun he => ⟨he, hothers e he⟩, And.left⟩

/-- Without a DUPLICATE, what was given may stand beside the entries of the other nodes. -/
theorem apart_of_not_held (hheld : roleHeld t node given = false) {r : Role} (hr : given = some r) {e : RoleEntry}
    (he : e ∈ t) (hne : e.node ≠ node) : e.Apart ⟨node, r⟩ :=
  ⟨hne, fun ⟨hrole, hsingle⟩ =>
    hne (roleHeld_eq_false_iff.1 hheld r hr ((congrArg Role.single hrole).symm.trans hsingle) e he hrole)⟩

theorem pairwise_setRoleTable (h : t.Pairwise RoleEntry.Apart) (hheld : roleHeld t node given = false) :
    (setRoleTable t node given).Pairwise RoleEntry.Apart := by
  unfold setRoleTable
  split
  · exact h.filter _
  · next r =>
    have hnew {e : RoleEntry} (he : e ∈ t) (hne : e.node ≠ node) : e.Apart ⟨node, r⟩ := apart_of_not_held hheld rfl he hne
    split
    · refine List.pairwise_map.2 (h.imp_of_mem fun {a b} ha hb hab => ?_)
      by_cases han : a.node = node
      · have hbn : b.node ≠ node := fun hbn => hab.1 (han.trans hbn.symm)
        simpa [han, hbn] using (hnew hb hbn).symm
      · by_cases hbn : b.node = node
        · simpa [han, hbn] using hnew ha han
        · simpa [han, hbn] using hab
    · next hentry =>
      have hothers : ∀ x ∈ t, x.node ≠ node := by simpa using hentry
      refine List.pairwise_append.2 ⟨h, List.pairwise_singleton .., fun a ha b hb => ?_⟩
      rw [List.mem_singleton.1 hb]
      exact hnew ha (hothers a ha)

/-- A SET ROLE that the table's SUPERVISOR makes of its own node gives it SUPERVISOR again, so its entry stands (R170). -/
theorem supervisor_mem_setRoleTable {own : Nat} (hown : ⟨own, .supervisor⟩ ∈ t)
    (hself : node = own → given = some .supervisor) : ⟨own, .supervisor⟩ ∈ setRoleTable t node given := by
  rw [mem_setRoleTable]
  by_cases hn : node = own
  · exact .inr ⟨_, hself hn, by rw [hn]⟩
  · exact .inl ⟨hown, fun h => hn h.symm⟩

theorem roleTableOk_setRoleTable {own : Nat} (h : roleTableOk t = true) (hnode : node ≤ 30)
    (hown : ⟨own, .supervisor⟩ ∈ t) (hself : node = own → given = some .supervisor)
    (hheld : roleHeld t node given = false) : roleTableOk (setRoleTable t node given) = true := by
  rw [roleTableOk_iff] at h ⊢
  obtain ⟨hnodes, hapart, -⟩ := h
  refine ⟨fun e he => ?_, pairwise_setRoleTable hapart hheld, _, supervisor_mem_setRoleTable hown hself, rfl⟩
  rcases mem_setRoleTable.1 he with ⟨he, -⟩ | ⟨r, -, rfl⟩
  · exact hnodes e he
  · exact hnode

end

/-! ### Where the entry of a node stands -/

theorem setRoleTable_adds {t : List RoleEntry} {node : Nat} (r : Role) (hothers : ∀ e ∈ t, e.node ≠ node) :
    setRoleTable t node (some r) = t ++ [⟨node, r⟩] := by
  unfold setRoleTable
  exact if_neg (by simpa using hothers)

theorem setRoleTable_replaces {before behind : List RoleEntry} {e : RoleEntry} (r : Role)
    (hothers : ∀ x ∈ before ++ behind, x.node ≠ e.node) :
    setRoleTable (before ++ e :: behind) e.node (some r) = before ++ ⟨e.node, r⟩ :: behind := by
  have hstand : ∀ l : List RoleEntry, (∀ x ∈ l, x.node ≠ e.node) →
      (l.map fun x => if x.node == e.node then ⟨e.node, r⟩ else x) = l := fun l hl =>
    (List.map_congr_left fun x hx => if_neg (by simpa using hl x hx)).trans (List.map_id _)
  unfold setRoleTable
  dsimp only
  rw [if_pos (by simp), List.map_append, List.map_cons, if_pos (by simp),
    hstand before fun x hx => hothers x (List.mem_append_left _ hx),
    hstand behind fun x hx => hothers x (List.mem_append_right _ hx)]

end Sys2Proof.Machine
end

section
/-! SUPPORT. Which commands leave the settings block, and where a request in service comes from. -/

namespace Sys2Proof.Machine

/-! ### Operations that leave the settings block -/

@[simp] theorem holdSeen_st (asserted : Bool) (s : State) : (holdSeen asserted s).st = s.st := by
  unfold holdSeen; dsimp only; (repeat' split) <;> simp
@[simp] theorem enterHalted_st (r : StateReason) (s : State) : (enterHalted r s).st = s.st := rfl
@[simp] theorem needleUp_st (s : State) : (needleUp s).st = s.st := by
  unfold needleUp needleUpRun needleUpHalting; dsimp only; (repeat' split) <;> simp
@[simp] theorem spliceOverflow_st (s : State) : (spliceOverflow s).st = s.st := by
  unfold spliceOverflow; split <;> simp
@[simp] theorem markLate_st (s : State) : (markLate s).st = s.st := by
  unfold markLate; (repeat' split) <;> simp
@[simp] theorem applyTravel_st (s : State) : (applyTravel s).st = s.st := rfl
@[simp] theorem orderJoined_st (o : Order) (s : State) : (orderJoined o s).st = s.st := by
  unfold orderJoined; split <;> simp
@[simp] theorem leaveOrder_st (o : Option Order) (s : State) : (leaveOrder o s).st = s.st := by
  unfold leaveOrder; (repeat' split) <;> simp
@[simp] theorem cancelRemove_st (o : Order) (s : State) : (cancelRemove o s).st = s.st := by
  unfold cancelRemove; dsimp only; split <;> simp
@[simp] theorem startRun_st (s : State) : (startRun s).st = s.st := by simp [startRun]
@[simp] theorem endRequested_st (s : State) : (endRequested s).st = s.st := by
  unfold endRequested; dsimp only; split <;> simp
@[simp] theorem abortCopy_st (tag : Word16) (copy : Nat) (s : State) : (abortCopy tag copy s).st = s.st := by
  unfold abortCopy; split <;> simp
@[simp] theorem abortRun_st (s : State) : (abortRun s).st = s.st := by
  unfold abortRun; dsimp only; split <;> simp
@[simp] theorem backstitch_st (r : Record) (rs : List Record) (s : State) : (backstitch r rs s).st = s.st := by
  simp [backstitch]
@[simp] theorem expanderRead_st (slot index : Nat) (live : Bool) (s : State) :
    (expanderRead slot index live s).st = s.st := by
  unfold expanderRead; split <;> simp
@[simp] theorem closingRead_st (s : State) : (closingRead s).st = s.st := by
  unfold closingRead; dsimp only; (repeat' split) <;> rfl

/-! ### Steps that end in an answer -/

@[simp] theorem answer_service (sv : Service) (st : Status) (ps : List Byte) (s : State) :
    (answer sv st ps s).lp.service = none := rfl
@[simp] theorem answerThen_service (sv : Service) (st : Status) (ps : List Byte) (a : AfterFrame) (s : State) :
    (answerThen sv st ps a s).lp.service = none := rfl

@[simp] theorem resumeSettled_answers (sv : Service) (s : State) :
    (resumeSettled sv s).st = s.st ∧ (resumeSettled sv s).lp.service = none := by
  unfold resumeSettled; (repeat' split) <;> simp
@[simp] theorem commitDecision_answers (sv : Service) (slot page : Nat) (written : Bool) (s : State) :
    (commitDecision sv slot page written s).st = s.st ∧ (commitDecision sv slot page written s).lp.service = none := by
  unfold commitDecision; (repeat' split) <;> simp
@[simp] theorem take_answers (d : Drive) (serial : Word32) (sv : Service) (s : State) :
    (take d serial sv s).st = s.st ∧ (take d serial sv s).lp.service = none := by
  unfold take; (repeat' split) <;> simp

/-! ### The request in service and the role check -/

/-- A request in service is a SET ROLE only where its node is the table's SUPERVISOR (R161). -/
def RoleChecked (roles : List RoleEntry) (sv : Service) : Prop :=
  ∀ src node role, sv.request = .setRole src node role → roleOfNode roles sv.node.toNat = some .supervisor

theorem rolesSound_iff (s : State) :
    RolesSound s ↔ roleTableOk s.st.working.roles = true ∧ s.st.working.roles.length ≤ 8 ∧
      ∀ sv, s.lp.service = some sv → RoleChecked s.st.working.roles sv ∧ s.st.startUp = .ready := by
  constructor
  · rintro ⟨htable, hsize, hrequester, hscanning⟩
    refine ⟨htable, hsize, fun sv hsv => ⟨fun src node role => hrequester sv src node role hsv, ?_⟩⟩
    by_contra hnot
    rw [hscanning hnot] at hsv
    cases hsv
  · rintro ⟨htable, hsize, hservice⟩
    refine ⟨htable, hsize, fun sv src node role hsv => (hservice sv hsv).1 src node role, fun hnot => ?_⟩
    exact Option.eq_none_iff_forall_ne_some.2 fun sv hsv => hnot (hservice sv hsv).2

/-- The requests that a node other than the SUPERVISOR may make (R161). -/
def otherRolesMayAsk : List Byte :=
  [0x06, 0x07, 0x12, 0x13, 0x20, 0x21, 0x22, 0x36, 0x37, 0x38, 0x40, 0x41, 0x45, 0x50, 0x51, 0x52, 0x65, 0x66]

theorem supervisor_of_permitted {code : Byte} {permitted : List Role} {role : Role}
    (hcode : permittedRoles code = some permitted) (hrole : role ∈ permitted) (hother : code ∉ otherRolesMayAsk) :
    role = .supervisor := by
  have table : ∀ code : Byte, code ∉ otherRolesMayAsk →
      (permittedRoles code).all (fun permitted => permitted.all (· == .supervisor)) = true := by decide +kernel
  have hall := table code hother
  rw [hcode, Option.all_some, List.all_eq_true] at hall
  exact eq_of_beq (hall role hrole)

/-- None of these is a SET ROLE. -/
theorem decodeRequest_ne_setRole {code : Byte} (h : code ∈ otherRolesMayAsk) (src src' : NodeId) (params : List Byte)
    (node role : Byte) : decodeRequest ⟨src, code, params⟩ ≠ some (.setRole src' node role) := by
  simp only [otherRolesMayAsk, List.mem_cons, List.not_mem_nil, or_false] at h
  rcases params with _ | ⟨_, _ | ⟨_, _ | ⟨_, _ | ⟨_, _ | ⟨_, _⟩⟩⟩⟩⟩ <;>
    rcases h with rfl | rfl | rfl | rfl | rfl | rfl | rfl | rfl | rfl | rfl | rfl | rfl | rfl | rfl | rfl | rfl | rfl | rfl <;>
    exact nofun

/-- The role check lets a SET ROLE through from the SUPERVISOR alone (R161). -/
theorem handOn_roleChecked {r : RequestFrame} {s : State} {sv : Service} (h : (handOn r s).lp.service = some sv) :
    RoleChecked s.st.working.roles sv := by
  unfold handOn at h
  dsimp only at h
  split at h
  · cases h
  · next permitted hcode =>
    split at h
    · cases h
    · next role hrole =>
      split at h
      · next hpermitted =>
        split at h
        · cases h
        · next c hc =>
          cases h
          rintro src node given rfl
          have hother : r.code ∉ otherRolesMayAsk := fun hmem => decodeRequest_ne_setRole hmem r.src src r.params node given hc
          rw [hrole, supervisor_of_permitted hcode hpermitted hother]
      · cases h

/-! ### Commands that leave the settings block -/

/-- The settings block stands, and a request in service is the one that was in service, or one that READY has handed on. -/
structure SettingsStand (s t : State) : Prop where
  block : t.st = s.st
  service : ∀ sv, t.lp.service = some sv →
    (∃ sv', s.lp.service = some sv' ∧ sv.request = sv'.request ∧ sv.node = sv'.node) ∨
      RoleChecked s.st.working.roles sv ∧ s.st.startUp = .ready

theorem SettingsStand.of_same {s t : State} (hst : t.st = s.st) (hservice : t.lp.service = s.lp.service) :
    SettingsStand s t := ⟨hst, fun sv hsv => .inl ⟨sv, hservice ▸ hsv, rfl, rfl⟩⟩

theorem SettingsStand.of_answered {s t : State} (hst : t.st = s.st) (hservice : t.lp.service = none) :
    SettingsStand s t := ⟨hst, fun _ hsv => absurd (hservice ▸ hsv) nofun⟩

theorem startUp_of_ready {s : State} (h : s.ready = true) : s.st.startUp = .ready := by
  simp only [State.ready, Bool.and_eq_true, decide_eq_true_eq] at h
  exact h.2

/-- A frame is handed on in READY alone, under the table in force. -/
theorem SettingsStand.handOn {s u : State} (hready : s.ready = true) (hst : u.st = s.st) (r : RequestFrame) :
    SettingsStand s (handOn r u) :=
  ⟨(handOn_st r u).trans hst, fun _ hsv => .inr ⟨hst ▸ handOn_roleChecked hsv, startUp_of_ready hready⟩⟩

/-- Where the settings stand, they stay sound: the role table is the same, and what is handed on has passed the role check. -/
theorem RolesSound.of_stand {s t : State} (h : RolesSound s) (hstand : SettingsStand s t) : RolesSound t := by
  rw [rolesSound_iff] at h ⊢
  obtain ⟨htable, hsize, hservice⟩ := h
  rw [hstand.block]
  refine ⟨htable, hsize, fun sv hsv => ?_⟩
  rcases hstand.service sv hsv with ⟨sv', hsv', hrequest, hnode⟩ | hchecked
  · rw [RoleChecked, hrequest, hnode]
    exact hservice sv' hsv'
  · exact hchecked

/-- The commands that can change the settings block: the resets that begin start-up, a finished read, SET SETTING and SET ROLE. -/
def changesSettings : Instr → Bool
  | .powerOn | .powerOff _ | .resetnAssert _ | .resetnRelease | .readComplete | .setSetting _ _ _ | .setRole _ _ _ => true
  | _ => false

theorem whenReady_settingsStand {s : State} {f : State → State} (hf : s.ready = true → SettingsStand s (f s)) :
    SettingsStand s (whenReady s f) :=
  whenReady_keeps (.of_same rfl rfl) hf

/-- A request leaves the settings when its owner's step answers it, or lets it wait. -/
theorem takeRequest_settingsStand {c : Instr} {own : Service → State → State} {s : State}
    (hown : ∀ sv s', (own sv s').st = s'.st ∧
      ∀ sv', (own sv s').lp.service = some sv' → sv'.request = sv.request ∧ sv'.node = sv.node) :
    SettingsStand s (takeRequest c own s) := by
  refine takeRequest_keeps (.of_same rfl rfl) (fun r hready _ => .handOn hready rfl r) fun sv s' h hserving => ?_
  obtain ⟨hst, hservice⟩ := hown sv s'
  obtain ⟨-, hsv, -⟩ := hserving
  refine ⟨hst.trans h.block, fun sv' hsv' => ?_⟩
  obtain ⟨hrequest, hnode⟩ := hservice sv' hsv'
  rw [RoleChecked, hrequest, hnode]
  exact h.service _ hsv

theorem exec_settingsStand {c : Instr} (h : changesSettings c = false) (s : State) :
    Leaves (exec c s) (SettingsStand s) := by
  have line : ∀ lp : LinePort, lp.service = s.lp.service → SettingsStand s (s.setLp lp) := fun _ hlp => .of_same rfl hlp
  cases c with
  | powerOn | powerOff | resetnAssert | resetnRelease | readComplete | setSetting | setRole => cases h
  | needleUp | holdSeenChange | stopSilenceExpiry | expansionEvent =>
    refine ⟨_, rfl, whenReady_settingsStand fun _ => ?_⟩
    (repeat' split) <;> exact .of_same (by simp) (by simp)
  | programStepComplete | eraseComplete | boundExpiry | progressIntervalEnd =>
    refine ⟨_, rfl, whenPowered_keeps (.of_same rfl rfl) fun _ => ?_⟩
    (repeat' split) <;> exact .of_same (by simp) (by simp)
  | inboundFrame | frameNotForPart | lineIdle | frameStart | frameDelivered | arbitrationLost | errorAbort =>
    exact ⟨_, rfl, whenReady_settingsStand fun _ => line _ (by simp)⟩
  | notAStartMark => exact ⟨_, rfl, whenReady_settingsStand fun _ => by split; exacts [line _ rfl, .of_same rfl rfl]⟩
  | resumeSettleEnd =>
    refine ⟨_, rfl, whenReady_settingsStand fun _ => ?_⟩
    split
    · exact .of_answered (by simp) (by simp)
    · exact .of_same rfl rfl
  | frameHandOn =>
    refine ⟨_, rfl, whenReady_settingsStand fun hready => ?_⟩
    split
    · exact .of_same rfl rfl
    · next r rest _ =>
      split
      · exact SettingsStand.handOn (u := s.slotFreed rest) hready rfl r
      · exact .of_same rfl rfl
  | resetPartApply =>
    refine ⟨_, rfl, whenReady_settingsStand fun _ => ?_⟩
    split
    · exact .of_answered rfl rfl
    · exact .of_same rfl rfl
  | reportSplice | backstitch | reportMoved | reportBreak =>
    refine ⟨_, rfl, takeRequest_settingsStand fun _ _ => ?_⟩
    dsimp only
    (repeat' split) <;> simp
  | loadBuffer | clearBuffer | commitPage | eraseSlot | closeSlot | readLibrary | readOutcome | enqueue | cancel | readQueue
  | readOrder | takeHead | takeFeed | start | stop | endRun | resume | abort | clearCauses | reportStopped | readStatus
  | readCounters | clearCounters | reportMended | park | unpark | readHistory | cutQuery | cutDone | writeSetup
  | reloadSetup | resetPart | readSetting | readTable =>
    refine ⟨_, rfl, takeRequest_settingsStand fun _ _ => ?_⟩
    (repeat' split) <;> simp [serviceWaits_lp]

end Sys2Proof.Machine
end

section
/-! SUPPORT. The settings through the commands that can change them, and that every command keeps them in range and the role table
sound. -/

namespace Sys2Proof.Machine

/-! ### Finished reads (R171, R173, R174) -/

theorem setupLoad_working (s : State) :
    (∃ new, readSetupPage s.pl.array = .ok new ∧ (setupLoad s).st.working = new) ∨
      (setupLoad s).st.working = .defaults := by
  cases h : readSetupPage s.pl.array with
  | ok new => exact .inl ⟨new, rfl, by rw [setupLoad_of_ok h]⟩
  | error test => exact .inr (by rw [setupLoad_of_error h])

@[simp] theorem classified_working (found : List SlotEntry) (e : SlotEntry) (s : State) :
    (classified found e s).st.working = s.st.working := by
  unfold classified reachReady scanNext; dsimp only; split <;> simp
@[simp] theorem scanWalk_working (found : List SlotEntry) (slot : Nat) (r : WalkResult) (s : State) :
    (scanWalk found slot r s).st.working = s.st.working := by
  unfold scanWalk scanNext; split <;> simp

/-- Of the reads of start-up that of the setup page alone reaches the working settings. -/
theorem scanRead_working (found : List SlotEntry) (r : ScanRead) (s : State) :
    (scanRead found r s).st.working = s.st.working ∨ (scanRead found r s).st.working = (setupLoad s).st.working := by
  cases r with
  | setup => exact .inr (by simp [scanRead, scanNext])
  | page | mark | header | segment =>
    left
    unfold scanRead scanNext
    dsimp only
    (repeat' split) <;> simp

/-- What a finished read leaves of the request in service: an answer, or the request as it was with the settings it found. -/
theorem deliver_service (r : ReadFor) (s : State) :
    (deliver r s).lp.service = none ∨
      (deliver r s).lp.service = s.lp.service ∧ (s.st.startUp = .ready → (deliver r s).st = s.st) := by
  cases r with
  | expander | closing => exact .inr (by simp [deliver])
  | written slot page =>
    simp only [deliver, writtenRead]
    split <;> simp
  | library slot page offset count =>
    simp only [deliver, libraryRead]
    split <;> simp
  | reload =>
    simp only [deliver, reloadRead]
    (repeat' split) <;> simp
  | scan r =>
    simp only [deliver]
    split
    · next hscanning => exact .inr ⟨by simp, fun hready => absurd (hready.symm.trans hscanning) nofun⟩
    · exact .inr ⟨rfl, fun _ => rfl⟩

/-- The working settings after a finished read: as they were, those of a usable setup page, or the built-in defaults. -/
theorem deliver_working (r : ReadFor) (s : State) :
    (deliver r s).st.working = s.st.working ∨
      (∃ new, readSetupPage s.pl.array = .ok new ∧ (deliver r s).st.working = new) ∨
      (deliver r s).st.working = .defaults := by
  cases r with
  | expander | closing => exact .inl (by simp [deliver])
  | written slot page =>
    simp only [deliver, writtenRead]
    split <;> simp
  | library slot page offset count =>
    simp only [deliver, libraryRead]
    split <;> simp
  | reload =>
    simp only [deliver, reloadRead]
    split
    · exact .inl rfl
    · split
      · exact .inl rfl
      · next new hnew => exact .inr (.inl ⟨new, hnew, rfl⟩)
  | scan r =>
    simp only [deliver]
    split
    · next found _ =>
      rcases scanRead_working found r s with hsame | hload
      · exact .inl hsame
      · rw [hload]
        exact .inr (setupLoad_working s)
    · exact .inl rfl

theorem SettingsInRange.deliver {s : State} (h : SettingsInRange s.st.working) (r : ReadFor) :
    SettingsInRange (deliver r s).st.working := by
  rcases deliver_working r s with hsame | ⟨new, hnew, hload⟩ | hdefaults
  · rw [hsame]; exact h
  · rw [hload]; exact (settings_of_setupPage hnew).1
  · rw [hdefaults]; exact settingsInRange_defaults

/-- With no request in service a sound table is all there is to it. -/
theorem rolesSound_of_idle {s : State} (htable : roleTableOk s.st.working.roles = true)
    (hsize : s.st.working.roles.length ≤ 8) (hidle : s.lp.service = none) : RolesSound s :=
  (rolesSound_iff s).2 ⟨htable, hsize, fun _ hsv => absurd (hidle ▸ hsv) nofun⟩

theorem RolesSound.deliver {s : State} (h : RolesSound s) (r : ReadFor) : RolesSound (deliver r s) := by
  have htable : roleTableOk (Machine.deliver r s).st.working.roles = true ∧
      (Machine.deliver r s).st.working.roles.length ≤ 8 := by
    rcases deliver_working r s with hsame | ⟨new, hnew, hload⟩ | hdefaults
    · rw [hsame]; exact ⟨h.table, h.size⟩
    · rw [hload]; exact ⟨(settings_of_setupPage hnew).2, length_roles_of_setupPage hnew⟩
    · rw [hdefaults]; decide
  rcases deliver_service r s with hanswered | ⟨hservice, hst⟩
  · exact rolesSound_of_idle htable.1 htable.2 hanswered
  · by_cases hready : s.st.startUp = .ready
    · exact h.of_stand (.of_same (hst hready) hservice)
    · exact rolesSound_of_idle htable.1 htable.2 (hservice.trans (h.scanning hready))

/-! ### Resets (R174) -/

theorem roleTableOk_defaults : roleTableOk Settings.defaults.roles = true := by decide

theorem length_roles_defaults : Settings.defaults.roles.length ≤ 8 := by decide

theorem rolesSound_held (pins : Pins) (array : List Host.Cell) (pending : List Instr) :
    RolesSound (State.held pins array pending) :=
  rolesSound_of_idle roleTableOk_defaults length_roles_defaults rfl

theorem rolesSound_startUp (array : List Host.Cell) (pending : List Instr) : RolesSound (State.startUp array pending) :=
  rolesSound_of_idle roleTableOk_defaults length_roles_defaults rfl

/-! ### SET SETTING and SET ROLE (R167, R170) -/

theorem storeSetting_st (sv : Service) (code : Byte) (width v : Nat) (s : State) :
    (storeSetting sv code width v s).st = { s.st with working := s.st.working.store code v } := by
  unfold storeSetting; dsimp only; rw [answerThen_st]; split <;> rfl

theorem storeSetting_service (sv : Service) (code : Byte) (width v : Nat) (s : State) :
    (storeSetting sv code width v s).lp.service = none := rfl

/-- The part with a role given to a node, or taken from it (R170). -/
def State.roleGiven (s : State) (node : Nat) (given : Option Role) : State :=
  s.setSt { s.st with working := { s.st.working with roles := setRoleTable s.st.working.roles node given } }

/-- The table's SUPERVISOR leaves it sound. -/
theorem RolesSound.roleGiven {s : State} {sv : Service} {st : Status} {ps : List Byte} {node : Nat} {given : Option Role}
    (h : RolesSound s) (hrequester : roleOfNode s.st.working.roles sv.node.toNat = some .supervisor) (hnode : node ≤ 30)
    (hself : node = sv.node.toNat → given = some .supervisor) (hheld : roleHeld s.st.working.roles node given = false)
    (hroom : (given.isSome && (roleOfNode s.st.working.roles node).isNone &&
      decide (Config.roleSize ≤ s.st.working.roles.length)) = false) :
    RolesSound (answer sv st ps (s.roleGiven node given)) := by
  obtain ⟨-, hapart, -⟩ := (roleTableOk_iff _).1 h.table
  refine rolesSound_of_idle ?_ (length_setRoleTable_le h.size hroom) rfl
  exact roleTableOk_setRoleTable h.table hnode ((roleOfNode_eq_some_iff hapart ..).1 hrequester) hself hheld

/-! ### Every command -/

theorem SettingsInRange.of_stand {s t : State} (h : SettingsInRange s.st.working) (hstand : SettingsStand s t) :
    SettingsInRange t.st.working := by
  rw [hstand.block]
  exact h

theorem exec_settingsInRange (c : Instr) {s : State} (h : SettingsInRange s.st.working) :
    Leaves (exec c s) fun t => SettingsInRange t.st.working := by
  cases hc : changesSettings c with
  | false =>
    obtain ⟨t, ht, hstand⟩ := exec_settingsStand hc s
    exact ⟨t, ht, h.of_stand hstand⟩
  | true =>
    have request : ∀ {c : Instr} {own : Service → State → State}, (∀ sv s', SettingsInRange s'.st.working →
        SettingsInRange (own sv s').st.working) → SettingsInRange (takeRequest c own s).st.working := fun hown =>
      takeRequest_keeps (P := fun t => SettingsInRange t.st.working) h (fun r _ _ => by rw [handOn_st]; exact h)
        fun sv s' h' _ => hown sv s' h'
    cases c with
    | powerOn => exact ⟨_, rfl, by split <;> exact settingsInRange_defaults⟩
    | powerOff | resetnAssert => exact ⟨_, rfl, settingsInRange_defaults⟩
    | resetnRelease => exact ⟨_, rfl, by split; exacts [settingsInRange_defaults, h]⟩
    | readComplete =>
      refine ⟨_, rfl, whenPowered_keeps (P := fun t => SettingsInRange t.st.working) h fun _ => ?_⟩
      split
      · exact h
      · next r _ =>
        rw [settle_st]
        exact SettingsInRange.deliver (s := s.portFreed) h r
    | setSetting src code value =>
      refine ⟨_, rfl, request fun sv s' h' => ?_⟩
      dsimp only
      split
      · exact h'
      · split
        · exact h'
        · split
          · exact h'
          · split
            · exact h'
            · next haccepted =>
              rw [storeSetting_st]
              exact h'.store (by simpa using haccepted)
    | setRole src node role =>
      refine ⟨_, rfl, request fun sv s' h' => ?_⟩
      dsimp only
      (repeat' split) <;> first | exact h' | exact { h' with }
    | _ => cases hc

theorem exec_rolesSound (c : Instr) {s : State} (h : RolesSound s) : Leaves (exec c s) RolesSound := by
  cases hc : changesSettings c with
  | false =>
    obtain ⟨t, ht, hstand⟩ := exec_settingsStand hc s
    exact ⟨t, ht, h.of_stand hstand⟩
  | true =>
    have request : ∀ {c : Instr} {own : Service → State → State}, (∀ sv s', RolesSound s' → Serving s' sv c →
        RolesSound (own sv s')) → RolesSound (takeRequest c own s) :=
      takeRequest_keeps h fun r hready _ => h.of_stand (.handOn hready rfl r)
    have answered : ∀ {u : State} (sv : Service) (st : Status), RolesSound u → RolesSound (answer sv st [] u) :=
      fun _ _ hu => rolesSound_of_idle hu.table hu.size rfl
    cases c with
    | powerOn => exact ⟨_, rfl, by split; exacts [rolesSound_held .., rolesSound_startUp ..]⟩
    | powerOff | resetnAssert => exact ⟨_, rfl, rolesSound_held ..⟩
    | resetnRelease => exact ⟨_, rfl, by split; exacts [rolesSound_startUp .., h.of_stand (.of_same rfl rfl)]⟩
    | readComplete =>
      refine ⟨_, rfl, whenPowered_keeps h fun _ => ?_⟩
      split
      · exact h
      · next r _ =>
        have hfree : RolesSound s.portFreed := h.of_stand (.of_same rfl rfl)
        exact (hfree.deliver r).of_stand (.of_same (settle_st _) (settle_lp_service _))
    | setSetting src code value =>
      refine ⟨_, rfl, request fun sv s' h' _ => ?_⟩
      have hstored : ∀ width v, RolesSound (storeSetting sv code width v s') := fun width v => by
        refine rolesSound_of_idle ?_ ?_ (storeSetting_service ..) <;> rw [storeSetting_st, roles_store]
        exacts [h'.table, h'.size]
      dsimp only
      (repeat' split) <;> first | exact hstored _ _ | exact answered _ _ h'
    | setRole src node role =>
      refine ⟨_, rfl, request fun sv s' h' hserving => ?_⟩
      obtain ⟨-, hsv, hrequest, -⟩ := hserving
      have hrequester := h'.requester sv src node role hsv hrequest
      dsimp only
      split
      · exact answered _ _ h'
      · split
        · exact answered _ _ h'
        · next hparams =>
          split
          · exact answered _ _ h'
          · next hself =>
            split
            · exact answered _ _ h'
            · next hheld =>
              split
              · exact answered _ _ h'
              · next hroom =>
                exact h'.roleGiven hrequester (by omega) (fun hnode => by_contra fun hnot => hself ⟨hnode, hnot⟩)
                  (by simpa using hheld) (by simpa using hroom)
    | _ => cases hc

/-- A step idles, or executes its front command on the rest of the queue; so it keeps what every command keeps. -/
theorem step_keeps {P : State → Prop} (hpending : ∀ s rest, P s → P (s.setPending rest))
    (hexec : ∀ c s, P s → Leaves (exec c s) P) {s t : State} (h : P s) (hstep : step s = .next t) : P t := by
  unfold step at hstep
  split at hstep
  · cases hstep
    exact h
  · next c rest _ =>
    obtain ⟨u, hu, hkept⟩ := hexec c _ (hpending s rest h)
    rw [hu] at hstep
    cases hstep
    exact hkept

/-- Settles O13: every command keeps the settings in range and the role table sound. -/
theorem settingsStayInRange : Obligations.SettingsStayInRange := by
  refine ⟨fun s t => ?range, fun s t => ?roles⟩
  case range =>
    exact step_keeps (P := fun s => SettingsInRange s.st.working) (fun _ _ => id) fun c _ => exec_settingsInRange c
  case roles =>
    exact step_keeps (fun _ _ h => h.of_stand (.of_same rfl rfl)) fun c _ => exec_rolesSound c

end Sys2Proof.Machine
end

section
/-! SUPPORT. The values that each reset leaves, and the array as a reset finds it: what an operation in hand had done. -/

namespace Sys2Proof.Machine

/-! ### Reset values (R174, R175) -/

theorem resetValues_held (pins : Pins) (array : List Host.Cell) (pending : List Instr) :
    ResetValues (State.held pins array pending) where
  controller := ⟨rfl, rfl, rfl, rfl⟩
  queue := rfl
  context := ⟨rfl, rfl, rfl, rfl, rfl, rfl⟩
  expander := ⟨rfl, rfl⟩
  window := ⟨rfl, rfl, rfl, rfl, rfl⟩
  run := ⟨rfl, rfl, rfl, rfl, rfl, rfl, rfl, rfl⟩
  groups := ⟨rfl, rfl, rfl, rfl⟩
  web := ⟨rfl, rfl, rfl, rfl, rfl⟩
  line := ⟨rfl, rfl, rfl, rfl⟩

/-- Start-up differs from the held state in its first read alone. -/
theorem resetValues_startUp (array : List Host.Cell) (pending : List Instr) :
    ResetValues (State.startUp array pending) :=
  { resetValues_held ⟨true, false⟩ array pending with }

/-- RESET PART leaves other settings in force, and a STATE in its place. -/
theorem resetValues_partReset (s : State) : ResetValues (announceState .startUp s.partReset) :=
  { resetValues_held s.pins s.pl.array s.pending with }

/-- RESET PART announces STANDBY with no cause, no end requested, and the window at its first serial (R120). -/
theorem partReset_announces (s : State) : (announceState .startUp s.partReset).lp.statePlace.map OutFrame.params =
    some [0, 0, 0, 0, 0, 0, 0, 1, 0, 0xFF] := by
  rw [announceState_lp, Option.map_some, stateFrame, stateOctets]
  show some ([RunState.standby.code] ++ octets16 0 ++ [boolOctet false] ++ octets32 1 ++ [StateReason.startUp.code,
    StateReason.startUp.raised]) = _
  decide

/-! ### Steps cut short (R17, R24, R37) -/

theorem cutShort_of_idle {l : Library} (h : l.op = none) (left : List Host.Cell) : l.cutShort left = l.array := by
  simp [Library.cutShort, Library.interrupted, h]

/-- The VOID mark that opens an ERASE SLOT stands, whatever the operand lists (R17). -/
theorem cutShort_voids {l : Library} {slot : Nat}
    (h : l.op.map (fun o => (o.work, o.point)) = some (.erase slot, .stepping .voidMarkFirst)) (left : List Host.Cell) :
    arrayByte (l.cutShort left) (markAddress slot) = 0x00 := by
  obtain ⟨⟨work, point, interval, suspended⟩, hop, hwork⟩ := Option.map_eq_some_iff.1 h
  cases hwork
  have hcut : l.cutShort left = arrayProgram l.array (markAddress slot) 0x00 := by
    rw [Library.cutShort, hop]
    rfl
  rw [hcut, arrayByte_arrayProgram, if_pos rfl]
  exact BitVec.and_zero

/-- Page data cut short before some bytes have left those as they were. -/
theorem arrayByte_interruptInOrder_of_ahead (left before behind : List Host.Cell) {mem : List Host.Cell} {a : Nat}
    (hother : ∀ c ∈ before, c.1 ≠ a) (hnone : (behind.any fun c => (cellAt left c.1).isSome) = false) :
    arrayByte (interruptInOrder mem left (before ++ behind)) a = arrayByte mem a := by
  induction before generalizing mem with
  | nil =>
    cases behind with
    | nil => rfl
    | cons c rest =>
      rw [List.any_cons, Bool.or_eq_false_iff, Option.isSome_eq_false_iff, Option.isNone_iff_eq_none] at hnone
      obtain ⟨hc, hrest⟩ := hnone
      rw [List.nil_append, interruptInOrder, hrest, hc]
      rfl
  | cons c rest ih =>
    have hc : c.1 ≠ a := hother c List.mem_cons_self
    rw [List.cons_append, interruptInOrder]
    split
    · rw [ih fun d hd => hother d (List.mem_cons_of_mem _ hd), arrayByte_arrayProgram, if_neg hc]
    · split
      · rfl
      · rw [arrayByte_arrayProgram, if_neg hc]

/-- The bytes a page's data are programmed to, at their addresses. -/
def pageCells (slot page : Nat) (cells : List Host.Cell) : List Host.Cell :=
  cells.map fun c => (pageBase slot page + c.1, c.2)

theorem cutShort_of_pageData {l : Library} {slot page : Nat} {cells : List Host.Cell}
    (h : l.op.map (fun o => (o.work, o.point)) = some (.commit slot page cells, .stepping .pageData)) (left : List Host.Cell) :
    l.cutShort left = interruptInOrder l.array left (pageCells slot page cells) := by
  obtain ⟨⟨work, point, interval, suspended⟩, hop, hwork⟩ := Option.map_eq_some_iff.1 h
  cases hwork
  rw [Library.cutShort, hop]
  dsimp only
  rw [Library.interrupted, hop]
  rfl

theorem nodup_pageCells {cells : List Host.Cell} (h : Rising cells) (slot page : Nat) :
    ((pageCells slot page cells).map Prod.fst).Nodup := by
  rw [pageCells, List.map_map, List.nodup_iff_pairwise_ne, List.pairwise_map]
  exact h.imp fun hlt heq => by simp at heq; omega

/-- Where one byte of a page's data has changed, each byte before it is programmed whole (R24). -/
theorem cutShort_programs_in_order {l : Library} {slot page : Nat} {before between behind : List Host.Cell}
    {d c : Host.Cell} {left : List Host.Cell}
    (h : l.op.map (fun o => (o.work, o.point)) =
      some (.commit slot page (before ++ d :: between ++ c :: behind), .stepping .pageData))
    (hrising : risingCells (before ++ d :: between ++ c :: behind) = true)
    (hchanged : arrayByte (l.cutShort left) (pageBase slot page + c.1) ≠ arrayByte l.array (pageBase slot page + c.1)) :
    arrayByte (l.cutShort left) (pageBase slot page + d.1) = arrayByte l.array (pageBase slot page + d.1) &&& d.2 := by
  have hrising : Rising (before ++ d :: between ++ c :: behind) := by simpa [risingCells, Rising] using hrising
  have hsplit : pageCells slot page (before ++ d :: between ++ c :: behind) =
      pageCells slot page before ++ (pageBase slot page + d.1, d.2) :: pageCells slot page (between ++ c :: behind) := by
    simp [pageCells]
  have hreached : ((pageCells slot page (between ++ c :: behind)).any fun x => (cellAt left x.1).isSome) = true := by
    by_contra hnone
    rw [Bool.not_eq_true, pageCells, List.map_append, List.any_append, Bool.or_eq_false_iff] at hnone
    refine hchanged ?_
    rw [cutShort_of_pageData h, pageCells, List.map_append]
    refine arrayByte_interruptInOrder_of_ahead left _ _ (fun x hx => ?_) hnone.2
    obtain ⟨y, hy, rfl⟩ := List.mem_map.1 hx
    have hbefore : y.1 < c.1 := (List.pairwise_append.1 hrising).2.2 y hy c List.mem_cons_self
    exact fun heq => by simp at heq; omega
  have hnodup := nodup_pageCells hrising slot page
  rw [hsplit] at hnodup
  rw [cutShort_of_pageData h, hsplit]
  exact arrayByte_interruptInOrder_of_passed left _ _ (pageBase slot page + d.1, d.2) hnodup hreached

/-! ### The obligations -/

/-- Settles O19: the values of each reset, then the array as RESETN or the loss of supply finds it. -/
theorem resetsGiveResetValues : Obligations.ResetsGiveResetValues := by
  refine ⟨fun s hreleased => ?powerOn, fun s hlow hsupply => ?release, fun s hready hdue => ?apply, fun s left =>
    ⟨⟨_, rfl, resetValues_held .., rfl, rfl, rfl, rfl⟩, ⟨_, rfl, resetValues_held .., rfl, rfl⟩,
      fun hidle => cutShort_of_idle hidle left, fun slot hop => cutShort_voids hop left,
      fun slot page before d between c behind => cutShort_programs_in_order⟩⟩
  case powerOn =>
    exact ⟨_, congrArg Host.Outcome.next (if_neg (by rw [hreleased]; decide)), resetValues_startUp .., rfl, rfl, rfl, rfl⟩
  case release =>
    exact ⟨_, congrArg Host.Outcome.next (if_pos (by rw [hlow, hsupply]; rfl)), resetValues_startUp .., rfl, rfl, rfl, rfl,
      rfl⟩
  case apply =>
    exact ⟨_, congrArg Host.Outcome.next ((whenReady_of hready _).trans (if_pos hdue)), resetValues_partReset s, rfl, rfl, rfl,
      rfl, rfl, rfl, rfl, partReset_announces s⟩

/-- Settles O8: the state after power-on is that of start-up over a blank array. -/
theorem invariantsAtReset : Obligations.InvariantsAtReset := by
  obtain ⟨hordered, hserials⟩ := (recordsSound_iff _).1 (recordsSound_startUp [] [])
  exact ⟨wf_nil, groupsApart_startUp [] [], runStateTable_startUp [] [], hordered, hserials, settingsInRange_defaults,
    rolesSound_startUp [] [], withinSizes_startUp [] [], resetValues_startUp [] []⟩

end Sys2Proof.Machine
end

section
/-! SUPPORT. SET SETTING: the widths of the settings, each setting as it is stored, and the state and the answer that follow. -/

namespace Sys2Proof.Machine

/-! ### Each setting as it is stored (R166) -/

section
variable (st : Settings) (v : Nat)

theorem store_nodeNumber : st.store 0x01 v = { st with nodeNumber := v } := rfl
theorem store_cellTime : st.store 0x02 v = { st with cellTime := max 4 (min v 250) } := by
  simp [Settings.store, clampNat_eq]
theorem store_lineFilter (h : ¬ 1 < v) : st.store 0x03 v = { st with lineFilter := decide (v = 1) } := by
  have hv : (v != 0) = decide (v = 1) := by
    rw [bne, Bool.beq_eq_decide_eq, ← decide_not]
    exact decide_eq_decide.2 (by omega)
  simp [Settings.store, hv]
theorem store_travel : st.store 0x04 v =
    { st with travel := max 100 (min v 3000), homeLateral := min st.homeLateral (max 100 (min v 3000)) } := by
  simp [Settings.store, clampNat_eq]
theorem store_homeLateral : st.store 0x05 v = { st with homeLateral := min v st.travel } := by
  simp [Settings.store, clampNat_eq]
theorem store_xMax : st.store 0x06 v = { st with xMax := max 1 (min v 120) } := by simp [Settings.store, clampNat_eq]
theorem store_yFwd : st.store 0x07 v = { st with yFwd := max 1 (min v 120) } := by simp [Settings.store, clampNat_eq]
theorem store_yRev : st.store 0x08 v = { st with yRev := min v 60 } := by simp [Settings.store, clampNat_eq]
theorem store_xJmax : st.store 0x09 v = { st with xJmax := max 1 (min v 250) } := by simp [Settings.store, clampNat_eq]
theorem store_yJmax : st.store 0x0A v = { st with yJmax := max 1 (min v 250) } := by simp [Settings.store, clampNat_eq]
theorem store_defStitch : st.store 0x0B v = { st with defStitch := max 10 (min v 100) } := by
  simp [Settings.store, clampNat_eq]
theorem store_defTackCount : st.store 0x0C v = { st with defTackCount := min 6 (v - v % 2) } := by
  simp [Settings.store, storedTackCount_eq]
theorem store_defTackLength : st.store 0x0D v = { st with defTackLength := max 1 (min v 20) } := by
  simp [Settings.store, clampNat_eq]
theorem store_primeDepth : st.store 0x0E v = { st with primeDepth := max 1 (min v 16) } := by
  simp [Settings.store, clampNat_eq]
theorem store_leadLimit : st.store 0x0F v = { st with leadLimit := max 1 (min v 4) } := by
  simp [Settings.store, clampNat_eq]
theorem store_stopSilence : st.store 0x10 v = { st with stopSilence := max 50 (min v 2000) } := by
  simp [Settings.store, clampNat_eq]
theorem store_spliceHalf : st.store 0x11 v = { st with spliceHalf := min v 500 } := by
  simp [Settings.store, clampNat_eq]
theorem store_protect : st.store 0x12 v = { st with protect := BitVec.ofNat 32 v } := rfl

end

/-! ### What follows a stored setting (R44, R167, R168) -/

/-- The queue after a setting: a travel reaches every order (R44). -/
def State.queueAfterSetting (s : State) (code : Byte) (v : Nat) : List Order :=
  if code = 0x04 then s.queue.map fun o => o.withTravel (s.st.working.store code v).travel s.pl.table else s.queue

/-- The part with a setting stored, before the answer. -/
def State.settingStored (s : State) (code : Byte) (v : Nat) : State :=
  (s.setSt { s.st with working := s.st.working.store code v }).setQueue (s.queueAfterSetting code v)

theorem storeSetting_eq (sv : Service) (code : Byte) (width v : Nat) (s : State) :
    storeSetting sv code width v s =
      answerThen sv (if (s.st.working.store code v).value code = v then .ok else .okClamped)
        (settingOctets code width s.st.working (s.st.working.store code v))
        (afterSetting code (s.st.working.store code v)) (s.settingStored code v) := by
  refine congrArg (answerThen sv _ _ _) ?_
  unfold State.settingStored State.queueAfterSetting
  split <;> rfl

/-- A node number, a cell time or a filter comes into force once the answer is gone (log 18). -/
theorem afterSetting_store (code : Byte) (st : Settings) (v : Nat) : afterSetting code (st.store code v) =
    ⟨if code = 0x01 then some v else none, if code = 0x02 then some (st.store code v).cellTime else none,
      if code = 0x03 then some (st.store code v).lineFilter else none, false⟩ := by
  by_cases h1 : code = 0x01
  · subst h1; rfl
  · by_cases h2 : code = 0x02
    · subst h2; rfl
    · by_cases h3 : code = 0x03
      · subst h3; rfl
      · rw [if_neg h1, if_neg h2, if_neg h3]
        unfold afterSetting
        split
        · exact absurd (BitVec.eq_of_toNat_eq ‹_›) h1
        · exact absurd (BitVec.eq_of_toNat_eq ‹_›) h2
        · exact absurd (BitVec.eq_of_toNat_eq ‹_›) h3
        · rfl

/-- The answer to a travel says whether it moved the home lateral (R167). -/
theorem settingOctets_eq (code : Byte) (width : Nat) (old new : Settings) : settingOctets code width old new =
    octetsOfWidth width (new.value code) ++ (if code = 0x04 then
      octetsNat16 new.homeLateral ++ [boolOctet (decide (new.homeLateral ≠ old.homeLateral))] else []) := by
  rw [settingOctets, bne, Bool.beq_eq_decide_eq, ← decide_not]

theorem withTravel_eq (o : Order) (travel : Nat) (table : List SlotEntry) : o.withTravel travel table =
    { o with
      start := min o.start travel
      willClip := match tableEntry table o.slot with
        | some (.closed info) =>
          decide (((min o.start travel : Nat) : Int) + info.xMin < 0) || decide (travel < (min o.start travel : Nat) + info.xMax)
        | _ => o.willClip } := by
  unfold Order.withTravel closedInfo clipExpected
  cases tableEntry table o.slot with
  | none => rfl
  | some e => cases e <;> rfl

/-! ### The tests of SET SETTING (R167, R177) -/

theorem valueCountOk_of_width {code : Byte} {w : Nat} (h : settingWidth code = some w) (count : Nat) :
    valueCountOk (settingWidth code) count = true ↔ count = w := by
  rw [h]
  exact beq_iff_eq

theorem valueCountOk_of_none {code : Byte} (h : settingWidth code = none) (count : Nat) :
    valueCountOk (settingWidth code) count = true ↔ 1 ≤ count ∧ count ≤ 4 := by
  simp [h, valueCountOk]

theorem settingRefused_iff (code : Byte) (v : Nat) :
    settingRefused code v = true ↔ (code = 0x01 ∧ 30 < v) ∨ (code = 0x03 ∧ 1 < v) := by
  simp [settingRefused]

section
variable {s : State} {sv : Service} {src : NodeId} {code : Byte} {value : List Byte}

theorem exec_setSetting_badCount (h : Serving s sv (.setSetting src code value))
    (hcount : valueCountOk (settingWidth code) value.length = false) :
    exec (.setSetting src code value) s = .next (answer sv .badParam [] s) :=
  next_of_serving h (if_pos hcount)

variable (hcount : valueCountOk (settingWidth code) value.length = true)
include hcount

theorem exec_setSetting_outside (h : Serving s sv (.setSetting src code value)) (hstate : s.rc.state ≠ .standby) :
    exec (.setSetting src code value) s = .next (answer sv .refusedState [] s) :=
  next_of_serving h ((if_neg (by rw [hcount]; decide)).trans (if_pos hstate))

theorem exec_setSetting_unknown (h : Serving s sv (.setSetting src code value)) (hstate : s.rc.state = .standby)
    (hcode : settingWidth code = none) : exec (.setSetting src code value) s = .next (answer sv .badParam [] s) := by
  refine next_of_serving h ((if_neg (by rw [hcount]; decide)).trans ((if_neg (not_not.2 hstate)).trans ?_))
  rw [hcode]

theorem exec_setSetting_known (h : Serving s sv (.setSetting src code value)) (hstate : s.rc.state = .standby) {w : Nat}
    (hcode : settingWidth code = some w) : exec (.setSetting src code value) s =
      .next (if settingRefused code (natOfOctets value) = true then answer sv .badParam [] s
        else storeSetting sv code w (natOfOctets value) s) := by
  refine next_of_serving h ((if_neg (by rw [hcount]; decide)).trans ((if_neg (not_not.2 hstate)).trans ?_))
  rw [hcode]

end

/-! ### The obligation -/

/-- Settles O55: the widths, the refusals in the order of the tests, then what an accepted request stores and answers. -/
theorem setSettingStores : Obligations.SetSettingStores := by
  refine ⟨⟨by decide, rfl, by decide +kernel, fun code => settingWidth_of_none⟩, fun s sv src code value h => ?_⟩
  refine ⟨fun w hw hlen => ?width, fun hnone hlen => ?count, fun hstate hcount => ?outside, fun hstate hbad => ?refused,
    fun hstate hw hnode hfilter => ?stored⟩
  case width =>
    exact exec_setSetting_badCount h (Bool.eq_false_iff.2 fun hok => hlen ((valueCountOk_of_width hw _).1 hok))
  case count =>
    refine exec_setSetting_badCount h (Bool.eq_false_iff.2 fun hok => ?_)
    obtain ⟨hlow, hhigh⟩ := (valueCountOk_of_none hnone _).1 hok
    omega
  case outside =>
    refine exec_setSetting_outside ?_ h hstate
    rcases hcount with hw | ⟨hnone, hlow, hhigh⟩
    · exact (valueCountOk_of_width hw _).2 rfl
    · exact (valueCountOk_of_none hnone _).2 ⟨hlow, hhigh⟩
  case refused =>
    by_cases hcount : valueCountOk (settingWidth code) value.length = true
    · rcases hbad with hnone | ⟨hw, hvalue⟩
      · exact exec_setSetting_unknown hcount h hstate hnone
      · rw [exec_setSetting_known hcount h hstate hw, if_pos ((settingRefused_iff ..).2 hvalue)]
    · exact exec_setSetting_badCount h (Bool.eq_false_iff.2 hcount)
  case stored =>
    have haccepted : ¬ settingRefused code (natOfOctets value) = true := fun hrefused =>
      ((settingRefused_iff ..).1 hrefused).elim hnode hfilter
    refine ⟨_, (exec_setSetting_known ((valueCountOk_of_width hw _).2 rfl) h hstate hw).trans (by rw [if_neg haccepted]), ?_⟩
    rw [storeSetting_eq]
    refine ⟨?_, ?_, ?_, ?_, ?_, ?_, ?_, ?_, ?_, ?_, ?_, ?_, ?_, ?_, ?_, ?_, ?_, ?_, rfl, fun hother => if_neg hother,
      fun htravel => ?queue, ?line, rfl, rfl, rfl, rfl, rfl, rfl⟩
    case queue => exact (if_pos htravel).trans (List.map_congr_left fun o _ => withTravel_eq ..)
    case line =>
      rw [settingOctets_eq, afterSetting_store]
      rfl
    all_goals rintro rfl
    · exact store_nodeNumber ..
    · exact store_cellTime ..
    · exact store_lineFilter _ _ fun hbig => hfilter ⟨rfl, hbig⟩
    · exact store_travel ..
    · exact store_homeLateral ..
    · exact store_xMax ..
    · exact store_yFwd ..
    · exact store_yRev ..
    · exact store_xJmax ..
    · exact store_yJmax ..
    · exact store_defStitch ..
    · exact store_defTackCount ..
    · exact store_defTackLength ..
    · exact store_primeDepth ..
    · exact store_leadLimit ..
    · exact store_stopSilence ..
    · exact store_spliceHalf ..
    · exact store_protect ..

end Sys2Proof.Machine
end

section
/-! SUPPORT. SET ROLE by its tests, what an accepted one makes of the table, and RESET PART. -/

namespace Sys2Proof.Machine

/-! ### Roles by their codes -/

/-- The role of a code, where it names one (chapter 11). -/
theorem roleOfCode_eq_some_iff (code : Byte) (r : Role) : roleOfCode code = some r ↔ r.code = code := by
  revert code
  cases r <;> decide +kernel

/-- The codes up to 6 are NONE and the six roles. -/
theorem roleOfCode_eq_none_iff {code : Byte} (h : code.toNat ≤ 6) : roleOfCode code = none ↔ code = 0 := by
  revert code
  decide +kernel

theorem Role.single_iff (r : Role) : r.single = true ↔ r.code = 1 ∨ r.code = 2 ∨ r.code = 3 ∨ r.code = 5 := by
  cases r <;> decide

/-- DUPLICATE, as R170 says it. -/
theorem roleHeld_iff (roles : List RoleEntry) (node : Nat) (role : Byte) :
    roleHeld roles node (roleOfCode role) = true ↔
      (role = 1 ∨ role = 2 ∨ role = 3 ∨ role = 5) ∧ ∃ e ∈ roles, e.node ≠ node ∧ e.role.code = role := by
  rw [← not_iff_not, Bool.not_eq_true, roleHeld_eq_false_iff]
  constructor
  · rintro hfree ⟨hsingle, e, he, hne, hcode⟩
    have hrole := (roleOfCode_eq_some_iff role e.role).2 hcode
    exact hne (hfree _ hrole ((Role.single_iff _).2 (hcode ▸ hsingle)) e he rfl)
  · rintro hnot r hr hsingle e he rfl
    have hcode := (roleOfCode_eq_some_iff role e.role).1 hr
    rw [Role.single_iff, hcode] at hsingle
    exact by_contra fun hne => hnot ⟨hsingle, e, he, hne, hcode⟩

/-! ### The tests of SET ROLE (R170) -/

section
variable {s : State} {sv : Service} {src : NodeId} {node role : Byte}

/-- The tests of R170 before DUPLICATE pass. -/
structure RoleTested (s : State) (sv : Service) (node role : Byte) : Prop where
  standby : s.rc.state = .standby
  nodeRange : node.toNat ≤ 30
  roleRange : role.toNat ≤ 6
  ownRole : node.toNat = sv.node.toNat → role = 1

/-- The answer to an accepted SET ROLE, with the table it leaves. -/
def storing (s : State) (sv : Service) (new : List RoleEntry) : State :=
  answer sv .ok (octet new.length) (s.setSt { s.st with working := { s.st.working with roles := new } })

theorem roleOfCode_one_iff : roleOfCode role = some .supervisor ↔ role = 1 :=
  (roleOfCode_eq_some_iff role .supervisor).trans eq_comm

theorem exec_setRole_outside (h : Serving s sv (.setRole src node role)) (hstate : s.rc.state ≠ .standby) :
    exec (.setRole src node role) s = .next (answer sv .refusedState [] s) :=
  next_of_serving h (if_pos hstate)

theorem exec_setRole_badParam (h : Serving s sv (.setRole src node role)) (hstate : s.rc.state = .standby)
    (hbad : 30 < node.toNat ∨ 6 < role.toNat ∨ (node.toNat = sv.node.toNat ∧ role ≠ 1)) :
    exec (.setRole src node role) s = .next (answer sv .badParam [] s) := by
  refine next_of_serving h ((if_neg (not_not.2 hstate)).trans ?_)
  by_cases hrange : 30 < node.toNat ∨ 6 < role.toNat
  · exact if_pos hrange
  · obtain ⟨hself, hrole⟩ := (or_assoc.2 hbad).resolve_left hrange
    exact (if_neg hrange).trans (if_pos ⟨hself, fun hsup => hrole (roleOfCode_one_iff.1 hsup)⟩)

/-- Behind the tests that `RoleTested` names stand DUPLICATE and FULL. -/
theorem exec_setRole_tested (h : Serving s sv (.setRole src node role)) (htested : RoleTested s sv node role) :
    exec (.setRole src node role) s = .next
      (if roleHeld s.st.working.roles node.toNat (roleOfCode role) = true then answer sv .duplicate [] s
      else if ((roleOfCode role).isSome && (roleOfNode s.st.working.roles node.toNat).isNone &&
          decide (Config.roleSize ≤ s.st.working.roles.length)) = true then answer sv .full [] s
      else storing s sv (setRoleTable s.st.working.roles node.toNat (roleOfCode role))) := by
  obtain ⟨hstate, hnode, hrole, hself⟩ := htested
  refine next_of_serving h ((if_neg (not_not.2 hstate)).trans ((if_neg (by omega)).trans (if_neg ?_)))
  exact fun ⟨hown, hother⟩ => hother (roleOfCode_one_iff.2 (hself hown))

theorem exec_setRole_duplicate (h : Serving s sv (.setRole src node role)) (htested : RoleTested s sv node role)
    (hheld : roleHeld s.st.working.roles node.toNat (roleOfCode role) = true) :
    exec (.setRole src node role) s = .next (answer sv .duplicate [] s) := by
  rw [exec_setRole_tested h htested, if_pos hheld]

/-- NONE, a node of the table, and room for one more are the cases in which the table is not FULL. -/
theorem roomy_of_accepted (htested : RoleTested s sv node role)
    (hroom : role = 0 ∨ (∃ e ∈ s.st.working.roles, e.node = node.toNat) ∨ s.st.working.roles.length < 8) :
    ((roleOfCode role).isSome && (roleOfNode s.st.working.roles node.toNat).isNone &&
      decide (Config.roleSize ≤ s.st.working.roles.length)) = false := by
  simp only [Bool.and_eq_false_iff, decide_eq_false_iff_not, Option.isSome_eq_false_iff, Option.isNone_iff_eq_none,
    roleOfCode_eq_none_iff htested.roleRange, Nat.not_le]
  rcases hroom with hnone | ⟨e, he, hnode⟩ | hroom
  · exact .inl (.inl hnone)
  · refine .inl (.inr (Bool.eq_false_iff.2 fun hmissing => ?_))
    exact (roleOfNode_eq_none_iff ..).1 (Option.isNone_iff_eq_none.1 hmissing) e he hnode
  · exact .inr hroom

variable (hfree : roleHeld s.st.working.roles node.toNat (roleOfCode role) = false)
include hfree

theorem exec_setRole_full (h : Serving s sv (.setRole src node role)) (htested : RoleTested s sv node role)
    (hrole : role ≠ 0) (hothers : ∀ e ∈ s.st.working.roles, e.node ≠ node.toNat) (hfull : 8 ≤ s.st.working.roles.length) :
    exec (.setRole src node role) s = .next (answer sv .full [] s) := by
  have hgiven : (roleOfCode role).isSome = true := by
    rw [Option.isSome_iff_ne_none, Ne, roleOfCode_eq_none_iff htested.roleRange]
    exact hrole
  have hnone : (roleOfNode s.st.working.roles node.toNat).isNone = true := by
    rw [Option.isNone_iff_eq_none, roleOfNode_eq_none_iff]
    exact hothers
  have hplaces : decide (Config.roleSize ≤ s.st.working.roles.length) = true := decide_eq_true hfull
  rw [exec_setRole_tested h htested, hfree, hgiven, hnone, hplaces]
  rfl

theorem exec_setRole_accepted (h : Serving s sv (.setRole src node role)) (htested : RoleTested s sv node role)
    (hroom : role = 0 ∨ (∃ e ∈ s.st.working.roles, e.node = node.toNat) ∨ s.st.working.roles.length < 8) :
    exec (.setRole src node role) s =
      .next (storing s sv (setRoleTable s.st.working.roles node.toNat (roleOfCode role))) := by
  rw [exec_setRole_tested h htested, hfree, roomy_of_accepted htested hroom]
  rfl

end

/-- The table of a SUPERVISOR that asks stays sound, within its size, and has the SUPERVISOR where it had it. -/
theorem setRoleTable_keeps_sound {s : State} {sv : Service} {node role : Byte} (htested : RoleTested s sv node role)
    (hfree : roleHeld s.st.working.roles node.toNat (roleOfCode role) = false)
    (hok : roleTableOk s.st.working.roles = true)
    (hown : roleOfNode s.st.working.roles sv.node.toNat = some .supervisor) :
    roleTableOk (setRoleTable s.st.working.roles node.toNat (roleOfCode role)) = true ∧
    roleOfNode (setRoleTable s.st.working.roles node.toNat (roleOfCode role)) sv.node.toNat = some .supervisor ∧
    ∀ r, roleOfCode role = some r →
      roleOfNode (setRoleTable s.st.working.roles node.toNat (roleOfCode role)) node.toNat = some r := by
  obtain ⟨-, hapart, -⟩ := (roleTableOk_iff _).1 hok
  have hmem := (roleOfNode_eq_some_iff hapart ..).1 hown
  have hself : node.toNat = sv.node.toNat → roleOfCode role = some .supervisor :=
    fun h => roleOfCode_one_iff.2 (htested.ownRole h)
  have hapart' := pairwise_setRoleTable hapart hfree
  refine ⟨roleTableOk_setRoleTable hok htested.nodeRange hmem hself hfree, ?_, fun r hr => ?_⟩
  · exact (roleOfNode_eq_some_iff hapart' ..).2 (supervisor_mem_setRoleTable hmem hself)
  · exact (roleOfNode_eq_some_iff hapart' ..).2 (mem_setRoleTable.2 (.inr ⟨r, hr, rfl⟩))

/-- A node can be made an OBSERVER where it is not the requester's own and the table has its entry or room for one. -/
structure ObserverFits (s : State) (sv : Service) (node role : Byte) : Prop where
  nodeRange : node.toNat ≤ 30
  other : node.toNat ≠ sv.node.toNat
  observer : role = 6
  room : (∃ e ∈ s.st.working.roles, e.node = node.toNat) ∨ s.st.working.roles.length < 8

/-- The table is sound, within its size and the requester's; an OBSERVER that fits stands in it. -/
structure TableKept (s : State) (sv : Service) (node role : Byte) (t : State) : Prop where
  table : roleTableOk t.st.working.roles = true
  size : t.st.working.roles.length ≤ 8
  requester : roleOfNode t.st.working.roles sv.node.toNat = some .supervisor
  observer : ObserverFits s sv node role → roleOfNode t.st.working.roles node.toNat = some .observer

/-- From the table's SUPERVISOR every SET ROLE in STANDBY keeps the table: a refusal leaves it, and no refusal meets an OBSERVER that
fits. -/
theorem exec_setRole_keeps {s : State} {sv : Service} {src : NodeId} {node role : Byte}
    (h : Serving s sv (.setRole src node role)) (hstate : s.rc.state = .standby)
    (hok : roleTableOk s.st.working.roles = true) (hsize : s.st.working.roles.length ≤ 8)
    (hown : roleOfNode s.st.working.roles sv.node.toNat = some .supervisor) :
    Leaves (exec (.setRole src node role) s) (TableKept s sv node role) := by
  have refused : ∀ st, exec (.setRole src node role) s = .next (answer sv st [] s) → ¬ ObserverFits s sv node role →
      Leaves (exec (.setRole src node role) s) (TableKept s sv node role) := fun st hrun hnot =>
    ⟨_, hrun, hok, hsize, hown, fun hfits => absurd hfits hnot⟩
  by_cases htested : RoleTested s sv node role
  · by_cases hheld : roleHeld s.st.working.roles node.toNat (roleOfCode role) = true
    · refine refused _ (exec_setRole_duplicate h htested hheld) fun hfits => ?_
      rw [roleHeld_iff, hfits.observer] at hheld
      exact absurd hheld.1 (by decide)
    · have hfree := Bool.eq_false_iff.2 hheld
      by_cases hroom : role = 0 ∨ (∃ e ∈ s.st.working.roles, e.node = node.toNat) ∨ s.st.working.roles.length < 8
      · obtain ⟨htable, hsupervisor, hgiven⟩ := setRoleTable_keeps_sound htested hfree hok hown
        exact ⟨_, exec_setRole_accepted hfree h htested hroom, htable,
          length_setRoleTable_le hsize (roomy_of_accepted htested hroom), hsupervisor,
          fun hfits => hgiven _ (by rw [hfits.observer]; rfl)⟩
      · obtain ⟨hsome, hrest⟩ := not_or.1 hroom
        obtain ⟨hothers, hfull⟩ := not_or.1 hrest
        have habsent : ∀ e ∈ s.st.working.roles, e.node ≠ node.toNat := fun e he hnode => hothers ⟨e, he, hnode⟩
        exact refused _ (exec_setRole_full hfree h htested hsome habsent (Nat.not_lt.1 hfull)) fun hfits => hrest hfits.room
  · refine refused _ (exec_setRole_badParam h hstate ?_) fun hfits => htested
      ⟨hstate, hfits.nodeRange, by rw [hfits.observer]; decide, fun hself => absurd hself hfits.other⟩
    by_contra hgood
    obtain ⟨hnode, hgood⟩ := not_or.1 hgood
    obtain ⟨hrole, hself⟩ := not_or.1 hgood
    exact htested ⟨hstate, Nat.not_lt.1 hnode, Nat.not_lt.1 hrole, fun hown => by_contra fun hne => hself ⟨hown, hne⟩⟩

/-- Settles O56: each refusal by its test, what is stored by where the node's entry stands, and the table of the SUPERVISOR that
asks. -/
theorem setRoleKeepsTableSound : Obligations.SetRoleKeepsTableSound := by
  intro s sv src node role h
  refine ⟨exec_setRole_outside h, fun hstate => ⟨exec_setRole_badParam h hstate, fun hnode hrole hself => ?tested⟩,
    fun hstate hok hsize hown => ?sound⟩
  case tested =>
    have htested : RoleTested s sv node role := ⟨hstate, hnode, hrole, hself⟩
    rw [← roleHeld_iff, Bool.not_eq_true]
    refine ⟨exec_setRole_duplicate h htested, fun hfree => ⟨fun hnone => ?_, fun hsome hothers => ⟨?_, fun hroom => ?_⟩,
      fun before e behind hsome hroles he hothers => ?_⟩⟩
    · have hgiven := (roleOfCode_eq_none_iff hrole).2 hnone
      rw [exec_setRole_accepted hfree h htested (.inl hnone), hgiven]
      rfl
    · exact exec_setRole_full hfree h htested hsome hothers
    · obtain ⟨r, hr⟩ := Option.ne_none_iff_exists'.1 fun hgiven => hsome ((roleOfCode_eq_none_iff hrole).1 hgiven)
      refine ⟨r, (roleOfCode_eq_some_iff role r).1 hr, ?_⟩
      rw [exec_setRole_accepted hfree h htested (.inr (.inr hroom)), hr, setRoleTable_adds r hothers]
      rfl
    · obtain ⟨r, hr⟩ := Option.ne_none_iff_exists'.1 fun hgiven => hsome ((roleOfCode_eq_none_iff hrole).1 hgiven)
      refine ⟨r, (roleOfCode_eq_some_iff role r).1 hr, ?_⟩
      have hentry : ∃ x ∈ s.st.working.roles, x.node = node.toNat := ⟨e, by simp [hroles], he⟩
      rw [exec_setRole_accepted hfree h htested (.inr (.inl hentry)), hr, hroles, ← he,
        setRoleTable_replaces r (he ▸ hothers)]
      rfl
  case sound =>
    obtain ⟨t, hrun, htable, hsize', hsupervisor, hobserver⟩ := exec_setRole_keeps h hstate hok hsize hown
    exact ⟨t, hrun, htable, hsize', hsupervisor, fun hnode hother hrole hroom => hobserver ⟨hnode, hother, hrole, hroom⟩⟩

/-! ### RESET PART (R175) -/

/-- Settles O57: RESET PART by its two tests; once it is accepted, nothing more is handed on (R160). -/
theorem resetPartIsAccepted : Obligations.ResetPartIsAccepted := by
  intro s sv src h
  refine ⟨fun hstate hidle => ⟨_, next_of_serving h ?_, rfl, ?_⟩, fun hstate hbusy => next_of_serving h ?_,
    fun hstate => next_of_serving h (if_pos hstate)⟩
  · exact (if_neg (not_not.2 hstate)).trans (if_neg (by rw [hidle]; decide))
  · simp [State.canHandOn]
  · exact (if_neg (not_not.2 hstate)).trans (if_pos hbusy)

end Sys2Proof.Machine
end

section
/-! SUPPORT. A step, by the queue of commands, and the frame of that queue: no command reaches it. -/

namespace Sys2Proof.Machine

/-! ### A step (log 3) -/

theorem step_of_waiting {s : State} {c : Instr} {rest : List Instr} (h : s.pending = c :: rest) :
    step s = exec c (s.setPending rest) := by
  rw [step, h]

theorem step_of_idle {s : State} (h : s.pending = []) : step s = .next s := by
  rw [step, h]

/-- Settles O1: the two cases of the queue. -/
theorem stepTakesFrontCommand : Obligations.StepTakesFrontCommand :=
  ⟨fun _ _ _ => step_of_waiting, fun _ => step_of_idle⟩

/-! ### Operations that leave the queue of commands -/

@[simp] theorem holdSeen_pending (asserted : Bool) (s : State) : (holdSeen asserted s).pending = s.pending := by
  unfold holdSeen; dsimp only; (repeat' split) <;> simp
@[simp] theorem enterHalted_pending (r : StateReason) (s : State) : (enterHalted r s).pending = s.pending := rfl
@[simp] theorem needleUp_pending (s : State) : (needleUp s).pending = s.pending := by
  unfold needleUp needleUpRun needleUpHalting; dsimp only; (repeat' split) <;> simp
@[simp] theorem spliceOverflow_pending (s : State) : (spliceOverflow s).pending = s.pending := by
  unfold spliceOverflow; split <;> simp
@[simp] theorem markLate_pending (s : State) : (markLate s).pending = s.pending := by
  unfold markLate; (repeat' split) <;> simp
@[simp] theorem applyTravel_pending (s : State) : (applyTravel s).pending = s.pending := rfl
@[simp] theorem storeSetting_pending (sv : Service) (code : Byte) (width v : Nat) (s : State) :
    (storeSetting sv code width v s).pending = s.pending := by
  unfold storeSetting; dsimp only; rw [answerThen_pending]; split <;> simp
@[simp] theorem take_pending (d : Drive) (serial : Word32) (sv : Service) (s : State) :
    (take d serial sv s).pending = s.pending := by
  unfold take; (repeat' split) <;> simp
@[simp] theorem orderJoined_pending (o : Order) (s : State) : (orderJoined o s).pending = s.pending := by
  unfold orderJoined; split <;> simp
@[simp] theorem leaveOrder_pending (o : Option Order) (s : State) : (leaveOrder o s).pending = s.pending := by
  unfold leaveOrder; (repeat' split) <;> simp
@[simp] theorem cancelRemove_pending (o : Order) (s : State) : (cancelRemove o s).pending = s.pending := by
  unfold cancelRemove; dsimp only; rw [settle_pending]; split <;> simp
@[simp] theorem startRun_pending (s : State) : (startRun s).pending = s.pending := by simp [startRun]
@[simp] theorem endRequested_pending (s : State) : (endRequested s).pending = s.pending := by
  unfold endRequested; dsimp only; rw [settle_pending]; split <;> simp
@[simp] theorem pending_resumeSettled (sv : Service) (s : State) : (resumeSettled sv s).pending = s.pending := by
  unfold resumeSettled; (repeat' split) <;> simp
@[simp] theorem abortCopy_pending (tag : Word16) (copy : Nat) (s : State) : (abortCopy tag copy s).pending = s.pending := by
  unfold abortCopy; split <;> simp
@[simp] theorem abortRun_pending (s : State) : (abortRun s).pending = s.pending := by
  unfold abortRun; dsimp only; split <;> simp
@[simp] theorem backstitch_pending (r : Record) (rs : List Record) (s : State) :
    (backstitch r rs s).pending = s.pending := by
  simp [backstitch]
@[simp] theorem acceptOp_pending (sv : Service) (work : OpWork) (point : OpPoint) (s : State) :
    (acceptOp sv work point s).pending = s.pending := by simp [acceptOp]
@[simp] theorem commitDecision_pending (sv : Service) (slot page : Nat) (written : Bool) (s : State) :
    (commitDecision sv slot page written s).pending = s.pending := by
  unfold commitDecision; (repeat' split) <;> simp
@[simp] theorem partReset_pending (s : State) : s.partReset.pending = s.pending := rfl

/-! ### Resets and finished reads leave the queue of commands -/

@[simp] theorem held_pending (pins : Pins) (array : List Host.Cell) (pending : List Instr) :
    (State.held pins array pending).pending = pending := rfl
@[simp] theorem startUp_pending (array : List Host.Cell) (pending : List Instr) :
    (State.startUp array pending).pending = pending := rfl

@[simp] theorem expanderRead_pending (slot index : Nat) (live : Bool) (s : State) :
    (expanderRead slot index live s).pending = s.pending := by
  unfold expanderRead; split <;> simp
@[simp] theorem closingRead_pending (s : State) : (closingRead s).pending = s.pending := by
  unfold closingRead; dsimp only; (repeat' split) <;> rfl
@[simp] theorem writtenRead_pending (slot page : Nat) (s : State) : (writtenRead slot page s).pending = s.pending := by
  unfold writtenRead; split <;> simp
@[simp] theorem libraryRead_pending (slot page offset count : Nat) (s : State) :
    (libraryRead slot page offset count s).pending = s.pending := by
  unfold libraryRead; split <;> simp
@[simp] theorem reloadRead_pending (s : State) : (reloadRead s).pending = s.pending := by
  unfold reloadRead; (repeat' split) <;> simp [reloadOutcome]
@[simp] theorem setupLoad_pending (s : State) : (setupLoad s).pending = s.pending := by
  unfold setupLoad followSettings; dsimp only; split <;> simp
@[simp] theorem scanNext_pending (r : ScanRead) (s : State) : (scanNext r s).pending = s.pending := rfl
@[simp] theorem classified_pending (found : List SlotEntry) (e : SlotEntry) (s : State) :
    (classified found e s).pending = s.pending := by
  unfold classified reachReady; dsimp only; split <;> simp
@[simp] theorem scanWalk_pending (found : List SlotEntry) (slot : Nat) (r : WalkResult) (s : State) :
    (scanWalk found slot r s).pending = s.pending := by
  unfold scanWalk; split <;> simp
@[simp] theorem scanRead_pending (found : List SlotEntry) (r : ScanRead) (s : State) :
    (scanRead found r s).pending = s.pending := by
  unfold scanRead; dsimp only; (repeat' split) <;> simp
@[simp] theorem deliver_pending (r : ReadFor) (s : State) : (deliver r s).pending = s.pending := by
  cases r with
  | scan r => unfold deliver; dsimp only; split <;> simp
  | _ => simp [deliver]

/-! ### Every command -/

theorem whenReady_pending {s : State} {f : State → State} (hf : (f s).pending = s.pending) :
    (whenReady s f).pending = s.pending :=
  whenReady_keeps (P := fun t => t.pending = s.pending) rfl fun _ => hf

theorem whenPowered_pending {s : State} {f : State → State} (hf : (f s).pending = s.pending) :
    (whenPowered s f).pending = s.pending :=
  whenPowered_keeps (P := fun t => t.pending = s.pending) rfl fun _ => hf

/-- A request leaves the queue of commands when its owner's step does. -/
theorem takeRequest_pending {c : Instr} {own : Service → State → State} {s : State}
    (hown : ∀ sv s', (own sv s').pending = s'.pending) : (takeRequest c own s).pending = s.pending :=
  takeRequest_keeps (P := fun t => t.pending = s.pending) rfl (fun r _ _ => handOn_pending r s)
    fun sv s' h _ => (hown sv s').trans h

/-- Settles O2: resets carry the queue over, events and finished reads go through operations that leave it, and a request does what
its owner's step does. -/
theorem commandsLeaveQueue : Obligations.CommandsLeaveQueue := by
  intro c s
  cases c with
  | powerOn | resetnRelease => exact ⟨_, rfl, by split <;> simp⟩
  | powerOff | resetnAssert => exact ⟨_, rfl, held_pending ..⟩
  | needleUp | holdSeenChange | stopSilenceExpiry | resumeSettleEnd | expansionEvent | frameHandOn | notAStartMark
  | resetPartApply =>
    refine ⟨_, rfl, whenReady_pending ?_⟩
    (repeat' split) <;> simp
  | programStepComplete | eraseComplete | boundExpiry | progressIntervalEnd | readComplete =>
    refine ⟨_, rfl, whenPowered_pending ?_⟩
    (repeat' split) <;> simp
  | inboundFrame | frameNotForPart | lineIdle | frameStart | frameDelivered | arbitrationLost | errorAbort =>
    exact ⟨_, rfl, whenReady_pending rfl⟩
  | reportMoved | reportBreak | reportSplice | backstitch | setSetting | setRole =>
    refine ⟨_, rfl, takeRequest_pending fun _ _ => ?_⟩
    dsimp only
    (repeat' split) <;> simp
  | loadBuffer | clearBuffer | commitPage | eraseSlot | closeSlot | readLibrary | readOutcome | enqueue | cancel | readQueue
  | readOrder | takeHead | takeFeed | start | stop | endRun | resume | abort | clearCauses | reportStopped | readStatus
  | readCounters | clearCounters | reportMended | park | unpark | readHistory | cutQuery | cutDone | writeSetup
  | reloadSetup | resetPart | readSetting | readTable =>
    refine ⟨_, rfl, takeRequest_pending fun _ _ => ?_⟩
    (repeat' split) <;> simp

end Sys2Proof.Machine
end
